-- ==== Sys2Proof/Word.lean ====
section
/-! DEFINITION. The words of the Felkap LC16: the bit vectors that the part's ring entries, registers and records are
made of (spec/10, "Handles and encodings"; spec/00, "Conventions"). -/

namespace Sys2Proof

/-- A tick value: now and every deadline (R93). Arithmetic is modulo 2^32. -/
abbrev Tick := BitVec 32

/-- A fence serial (R9, R106). -/
abbrev Serial := BitVec 48

/-- The 64-bit name of a key (R1). -/
abbrev Name := BitVec 64

/-- The request tag that software chooses and the part echoes (spec/00, "Request tags"). -/
abbrev ReqTag := BitVec 16

/-- A session handle: index in bits 0 to 8, tag in bits 9 to 15 (R167). -/
abbrev SessionHandle := BitVec 16

/-- A claim handle: index in bits 0 to 14, tag in bits 15 to 22, bits 23 to 31 zero (R167). -/
abbrev ClaimHandle := BitVec 32

/-- A 64-bit host memory address (R119, R173). -/
abbrev HostAddr := BitVec 64

/-- The 32-byte value of a resource entry (R9), byte k of it at bits 8k to 8k+7. -/
abbrev ValueWord := BitVec 256

/-- One 64-byte ring entry (R169 to R171), byte k of it at bits 8k to 8k+7, so that a little-endian field at bytes
a to b is the bits 8a to 8b+7. -/
abbrev RingEntry := BitVec 512

end Sys2Proof
end

