-- ==== Sys2Proof/Syntax.lean ====
section
/-! DEFINITION. The commands of the LC16: one constructor for each row of spec/opcode_table.json. Coded fields of a ring
entry (modes, levels, domains, targets) stay raw codes here, since a code out of range is a legal request that is
refused BAD_REQUEST (R167). -/

namespace Sys2Proof

/-- What a write to the management ring registers addresses (R172): a whole register, or one 32-bit half of a ring
base. The written data stand in the low bits of the command's value. -/
inductive RingRegister where
  | reqBase | reqBaseLow | reqBaseHigh | reqSize | rplBase | rplBaseLow | rplBaseHigh | rplSize | vector
  deriving DecidableEq, Repr

/-- A command of the LC16. The 20 request commands are "the request is taken" (spec/00, "How time is told"): each
carries the channel it is taken on and the fields that its ring entry holds (R169). -/
inductive Instr where
  /-- OPEN_SESSION (R76). -/
  | openSession (ch : Fin 16) (tag : ReqTag) (period : BitVec 16) (notices : Bool)
  /-- CLOSE_SESSION (R86, R87). -/
  | closeSession (ch : Fin 16) (tag : ReqTag) (session : SessionHandle)
  /-- KEEPALIVE (R79). -/
  | keepalive (ch : Fin 16) (tag : ReqTag) (session : SessionHandle)
  /-- ACQUIRE (R49). -/
  | acquire (ch : Fin 16) (tag : ReqTag) (session : SessionHandle) (domain mode : BitVec 8) (wait : BitVec 16)
      (name : Name)
  /-- CONVERT (R55). -/
  | convert (ch : Fin 16) (tag : ReqTag) (claim : ClaimHandle) (mode : BitVec 8) (present invalidate : Bool)
      (wait : BitVec 16) (value : ValueWord)
  /-- RELEASE (R63). -/
  | release (ch : Fin 16) (tag : ReqTag) (claim : ClaimHandle) (present invalidate : Bool) (value : ValueWord)
  /-- CANCEL (R65). -/
  | cancel (ch : Fin 16) (tag : ReqTag) (session : SessionHandle) (domain : BitVec 8) (name : Name)
  /-- CHECK_FENCE (R111). -/
  | checkFence (ch : Fin 16) (tag : ReqTag) (session : SessionHandle) (domain : BitVec 8) (name : Name)
      (serial : Serial)
  /-- UNKNOWN_KIND_REQUEST (R168): an entry whose kind code names no request kind. -/
  | unknownKindRequest (ch : Fin 16) (tag : ReqTag) (kind : BitVec 16)
  /-- SETUP_CHANNEL (R157). -/
  | setupChannel (ch : Fin 16) (tag : ReqTag) (target vector : BitVec 8) (sessionLimit claimLimit : BitVec 16)
      (reqBase rplBase : HostAddr) (reqSize rplSize : BitVec 16)
  /-- TEARDOWN_CHANNEL (R158). -/
  | teardownChannel (ch : Fin 16) (tag : ReqTag) (target : BitVec 8)
  /-- RESTART_CHANNEL (R160). -/
  | restartChannel (ch : Fin 16) (tag : ReqTag) (target : BitVec 8)
  /-- SET_ACCESS (R161). -/
  | setAccess (ch : Fin 16) (tag : ReqTag) (target domain level : BitVec 8)
  /-- SET_LIMITS (R162). -/
  | setLimits (ch : Fin 16) (tag : ReqTag) (target : BitVec 8) (sessionLimit claimLimit : BitVec 16)
  /-- SET_TICK (R96). -/
  | setTick (ch : Fin 16) (tag : ReqTag) (period : BitVec 32)
  /-- EVICT_SESSION (R84). -/
  | evictSession (ch : Fin 16) (tag : ReqTag) (session : SessionHandle)
  /-- DISCARD_RESOURCE (R17). -/
  | discardResource (ch : Fin 16) (tag : ReqTag) (domain : BitVec 8) (name : Name)
  /-- INSPECT_RESOURCE (R164). -/
  | inspectResource (ch : Fin 16) (tag : ReqTag) (domain : BitVec 8) (name : Name)
  /-- INSPECT_SESSION (R164). -/
  | inspectSession (ch : Fin 16) (tag : ReqTag) (session : SessionHandle)
  /-- INSPECT_DEVICE (R165). -/
  | inspectDevice (ch : Fin 16) (tag : ReqTag)
  /-- REQ_PROD_WRITE (R122): a 32-bit write of a channel's REQ_PROD. -/
  | reqProdWrite (ch : Fin 16) (value : BitVec 32)
  /-- RPL_CONS_WRITE (R134): a 32-bit write of a channel's RPL_CONS. -/
  | rplConsWrite (ch : Fin 16) (value : BitVec 32)
  /-- MGMT_CONTROL_ENABLE (R153): a 32-bit write of MGMT_CONTROL with the ENABLE bit set. -/
  | mgmtControlEnable (value : BitVec 32)
  /-- MGMT_CONTROL_RESTART (R155): a 32-bit write of MGMT_CONTROL with the RESTART bit set. -/
  | mgmtControlRestart (value : BitVec 32)
  /-- MGMT_RING_REGISTER_WRITE (R152). -/
  | mgmtRingRegisterWrite (reg : RingRegister) (value : BitVec 64)
  /-- OTHER_REGISTER_WRITE (R172): a write of `bytes` bytes at an offset of the register window that is no write of a
  writable register. -/
  | otherRegisterWrite (offset : BitVec 13) (bytes : Nat) (value : BitVec 64)
  /-- TICK (R94). -/
  | tick
  /-- KEEPALIVE_EXPIRY (R81): the delivery of the due keepalive deadline of a session record. -/
  | keepaliveExpiry (session : Fin 512)
  /-- WAIT_EXPIRY (R66): the delivery of the due wait deadline of a claim record. -/
  | waitExpiry (claim : Fin 32768)
  /-- FETCH_ISSUE (R126): a grant of the fetch arbiter. -/
  | fetchIssue
  /-- FETCH_COMPLETION (R127): a channel's fetch completes without error, with the entries it read. -/
  | fetchCompletion (ch : Fin 16) (entries : List RingEntry)
  /-- FETCH_ERROR (R128). -/
  | fetchError (ch : Fin 16)
  /-- WRITE_COMPLETION (R132): the oldest write in flight of a channel completes without error. -/
  | writeCompletion (ch : Fin 16)
  /-- WRITE_ERROR (R133): the oldest write in flight of a channel completes with an error. -/
  | writeError (ch : Fin 16)
  /-- TEARDOWN_END (R139). -/
  | teardownEnd (ch : Fin 16)
  /-- DEVICE_RESET (R151): a device reset or a function-level reset. -/
  | deviceReset
  /-- STARTUP_END (R151). -/
  | startupEnd
  deriving DecidableEq, Repr

end Sys2Proof
end

