-- ==== Sys2Proof/WellFormed.lean ====
section
/-! DEFINITION. Which commands are well-formed: the words that each row's own description rules out (a REQ_PROD write to
a read-only register, a known kind code in UNKNOWN_KIND_REQUEST, and the like). A request whose fields are out of range
IS well-formed: the part takes it and refuses it BAD_REQUEST. -/

namespace Sys2Proof

/-- The kind codes that name a request kind (R168). -/
def requestKindCode (k : BitVec 16) : Bool :=
  (1#16 ≤ k && k ≤ 8#16) || (0x20#16 ≤ k && k ≤ 0x2A#16)

/-- Whether a write of this width at this offset is a write access to a writable register (R172): the offset of a
32-bit register with 4 bytes, of a ring base with 8 bytes, or of one of its halves with 4. -/
def writableRegister (offset : BitVec 13) (bytes : Nat) : Bool :=
  if offset < 0x1000#13 then
    (bytes == 4 && offset.toNat ∈ [0x04, 0x08, 0x0C, 0x10, 0x18, 0x1C, 0x20, 0x24])
      || (bytes == 8 && offset.toNat ∈ [0x08, 0x18])
  else bytes == 4 && (offset.toNat % 0x100 ∈ [0x00, 0x0C])

/-- Whether some 32-bit register or half of a register lies at this offset. -/
def registerAt (offset : Nat) : Bool :=
  if offset < 0x1000 then offset % 4 == 0 && offset ≤ 0x24 && offset != 0x14
  else offset % 0x100 ∈ [0x00, 0x04, 0x08, 0x0C, 0x10]

/-- An access of 1, 2, 4 or 8 bytes, aligned to its width, whose data fit the width. An 8-byte access is one to a ring
base, or one that touches no register (R172 says nothing of wider accesses to a 32-bit register: log entry 14). -/
def accessShape (offset : BitVec 13) (bytes : Nat) (value : BitVec 64) : Bool :=
  (bytes ∈ [1, 2, 4, 8]) && offset.toNat % bytes == 0 && value.toNat < 256 ^ bytes
    && (bytes != 8 || offset.toNat ∈ [0x08, 0x18]
        || (!registerAt offset.toNat && !registerAt (offset.toNat + 4)))

/-- The halves of a ring base and the 32-bit registers take 32 bits of data (R172). -/
def RingRegister.is64 : RingRegister → Bool
  | .reqBase | .rplBase => true
  | .reqBaseLow | .reqBaseHigh | .reqSize | .rplBaseLow | .rplBaseHigh | .rplSize | .vector => false

/-- A command is well-formed when it spells what its row of the table is. -/
def Instr.wellFormed : Instr → Bool
  | .unknownKindRequest _ _ kind => !requestKindCode kind
  | .mgmtControlEnable value => value.getLsbD 0
  | .mgmtControlRestart value => value.getLsbD 1
  | .mgmtRingRegisterWrite reg value => reg.is64 || value.toNat < 2 ^ 32
  | .otherRegisterWrite offset bytes value => accessShape offset bytes value && !writableRegister offset bytes
  | .fetchCompletion _ entries => 1 ≤ entries.length && entries.length ≤ 4
  | .openSession .. | .closeSession .. | .keepalive .. | .acquire .. | .convert .. | .release .. | .cancel ..
  | .checkFence .. | .setupChannel .. | .teardownChannel .. | .restartChannel .. | .setAccess .. | .setLimits ..
  | .setTick .. | .evictSession .. | .discardResource .. | .inspectResource .. | .inspectSession ..
  | .inspectDevice .. | .reqProdWrite .. | .rplConsWrite .. | .tick | .keepaliveExpiry .. | .waitExpiry ..
  | .fetchIssue | .fetchError .. | .writeCompletion .. | .writeError .. | .teardownEnd .. | .deviceReset
  | .startupEnd => true

end Sys2Proof
end

