-- ==== Sys2Proof/Decode.lean ====
section
/-! DEFINITION. Reading commands from bits. The rows of spec/opcode_table.json give no bits, so no word spells a command
(decodeTableWord). What the LC16 does read from bits is the 64-byte request entry of a fetch (R169): decodeEntry, total
on any 64 bytes, and its encoder. -/

namespace Sys2Proof

/-- The command that a word spells by the bits of spec/opcode_table.json: no row of this block's table gives any. -/
def decodeTableWord (_nbits _w : Nat) : Option Instr := none

/-- The `n` bits of an entry that start at byte `off` (little-endian; spec/00, "Byte order"). -/
def bytesAt (e : RingEntry) (off n : Nat) : BitVec n := e.extractLsb' (8 * off) n

/-- An entry that holds `v` from byte `off` on and zero elsewhere. -/
def putAt {n : Nat} (off : Nat) (v : BitVec n) : RingEntry := v.setWidth 512 <<< (8 * off)

/-- A flag as one bit. -/
def flagBit (b : Bool) : BitVec 1 := BitVec.ofBool b

/-- Bit `k` of byte `off` of an entry. -/
def bitAt (e : RingEntry) (off k : Nat) : Bool := e.getLsbD (8 * off + k)

/-- The request that a fetched entry is on channel `ch` (R168, R169). Bytes that the layout of its kind does not name are
ignored. A kind code that names no request kind, a notice code among them, is an unknown kind (R168). -/
def decodeEntry (ch : Fin 16) (e : RingEntry) : Instr :=
  let tag : ReqTag := bytesAt e 2 16
  let session : SessionHandle := bytesAt e 4 16
  match (bytesAt e 0 16).toNat with
  | 0x01 => .openSession ch tag (bytesAt e 8 16) (bitAt e 10 0)
  | 0x02 => .closeSession ch tag session
  | 0x03 => .keepalive ch tag session
  | 0x04 => .acquire ch tag session (bytesAt e 8 8) (bytesAt e 9 8) (bytesAt e 10 16) (bytesAt e 16 64)
  | 0x05 => .convert ch tag (bytesAt e 8 32) (bytesAt e 12 8) (bitAt e 13 0) (bitAt e 13 1) (bytesAt e 14 16)
      (bytesAt e 32 256)
  | 0x06 => .release ch tag (bytesAt e 8 32) (bitAt e 13 0) (bitAt e 13 1) (bytesAt e 32 256)
  | 0x07 => .cancel ch tag session (bytesAt e 8 8) (bytesAt e 16 64)
  | 0x08 => .checkFence ch tag session (bytesAt e 8 8) (bytesAt e 16 64) (bytesAt e 24 48)
  | 0x20 => .setupChannel ch tag (bytesAt e 8 8) (bytesAt e 9 8) (bytesAt e 10 16) (bytesAt e 12 16)
      (bytesAt e 16 64) (bytesAt e 24 64) (bytesAt e 32 16) (bytesAt e 34 16)
  | 0x21 => .teardownChannel ch tag (bytesAt e 8 8)
  | 0x22 => .restartChannel ch tag (bytesAt e 8 8)
  | 0x23 => .setAccess ch tag (bytesAt e 8 8) (bytesAt e 9 8) (bytesAt e 10 8)
  | 0x24 => .setLimits ch tag (bytesAt e 8 8) (bytesAt e 10 16) (bytesAt e 12 16)
  | 0x25 => .setTick ch tag (bytesAt e 8 32)
  | 0x26 => .evictSession ch tag session
  | 0x27 => .discardResource ch tag (bytesAt e 8 8) (bytesAt e 16 64)
  | 0x28 => .inspectResource ch tag (bytesAt e 8 8) (bytesAt e 16 64)
  | 0x29 => .inspectSession ch tag session
  | 0x2A => .inspectDevice ch tag
  | _ => .unknownKindRequest ch tag (bytesAt e 0 16)

/-- The header of a request entry: kind code and request tag (R169). -/
def entryHeader (kind : BitVec 16) (tag : ReqTag) : RingEntry := putAt 0 kind ||| putAt 2 tag

/-- The flags byte of CONVERT and RELEASE: value-present in bit 0, invalidate in bit 1 (R169). -/
def valueFlags (present invalidate : Bool) : BitVec 2 := flagBit invalidate ++ flagBit present

/-- The entry that software places in a request ring for a request (R168, R169), its reserved bytes zero; none for a
command that is no request. -/
def encodeEntry : Instr → Option RingEntry
  | .openSession _ tag period notices =>
      some (entryHeader 0x01 tag ||| putAt 8 period ||| putAt 10 (flagBit notices))
  | .closeSession _ tag session => some (entryHeader 0x02 tag ||| putAt 4 session)
  | .keepalive _ tag session => some (entryHeader 0x03 tag ||| putAt 4 session)
  | .acquire _ tag session domain mode wait name =>
      some (entryHeader 0x04 tag ||| putAt 4 session ||| putAt 8 domain ||| putAt 9 mode ||| putAt 10 wait
        ||| putAt 16 name)
  | .convert _ tag claim mode present invalidate wait value =>
      some (entryHeader 0x05 tag ||| putAt 8 claim ||| putAt 12 mode ||| putAt 13 (valueFlags present invalidate)
        ||| putAt 14 wait ||| putAt 32 value)
  | .release _ tag claim present invalidate value =>
      some (entryHeader 0x06 tag ||| putAt 8 claim ||| putAt 13 (valueFlags present invalidate) ||| putAt 32 value)
  | .cancel _ tag session domain name =>
      some (entryHeader 0x07 tag ||| putAt 4 session ||| putAt 8 domain ||| putAt 16 name)
  | .checkFence _ tag session domain name serial =>
      some (entryHeader 0x08 tag ||| putAt 4 session ||| putAt 8 domain ||| putAt 16 name ||| putAt 24 serial)
  | .unknownKindRequest _ tag kind => some (entryHeader kind tag)
  | .setupChannel _ tag target vector sessionLimit claimLimit reqBase rplBase reqSize rplSize =>
      some (entryHeader 0x20 tag ||| putAt 8 target ||| putAt 9 vector ||| putAt 10 sessionLimit
        ||| putAt 12 claimLimit ||| putAt 16 reqBase ||| putAt 24 rplBase ||| putAt 32 reqSize ||| putAt 34 rplSize)
  | .teardownChannel _ tag target => some (entryHeader 0x21 tag ||| putAt 8 target)
  | .restartChannel _ tag target => some (entryHeader 0x22 tag ||| putAt 8 target)
  | .setAccess _ tag target domain level =>
      some (entryHeader 0x23 tag ||| putAt 8 target ||| putAt 9 domain ||| putAt 10 level)
  | .setLimits _ tag target sessionLimit claimLimit =>
      some (entryHeader 0x24 tag ||| putAt 8 target ||| putAt 10 sessionLimit ||| putAt 12 claimLimit)
  | .setTick _ tag period => some (entryHeader 0x25 tag ||| putAt 8 period)
  | .evictSession _ tag session => some (entryHeader 0x26 tag ||| putAt 4 session)
  | .discardResource _ tag domain name => some (entryHeader 0x27 tag ||| putAt 8 domain ||| putAt 16 name)
  | .inspectResource _ tag domain name => some (entryHeader 0x28 tag ||| putAt 8 domain ||| putAt 16 name)
  | .inspectSession _ tag session => some (entryHeader 0x29 tag ||| putAt 4 session)
  | .inspectDevice _ tag => some (entryHeader 0x2A tag)
  | .reqProdWrite .. | .rplConsWrite .. | .mgmtControlEnable .. | .mgmtControlRestart ..
  | .mgmtRingRegisterWrite .. | .otherRegisterWrite .. | .tick | .keepaliveExpiry .. | .waitExpiry .. | .fetchIssue
  | .fetchCompletion .. | .fetchError .. | .writeCompletion .. | .writeError .. | .teardownEnd .. | .deviceReset
  | .startupEnd => none

/-- The channel a request command is taken on; none for a command that is no request. -/
def Instr.requestChannel : Instr → Option (Fin 16)
  | .openSession ch .. | .closeSession ch .. | .keepalive ch .. | .acquire ch .. | .convert ch .. | .release ch ..
  | .cancel ch .. | .checkFence ch .. | .unknownKindRequest ch .. | .setupChannel ch .. | .teardownChannel ch ..
  | .restartChannel ch .. | .setAccess ch .. | .setLimits ch .. | .setTick ch .. | .evictSession ch ..
  | .discardResource ch .. | .inspectResource ch .. | .inspectSession ch .. | .inspectDevice ch .. => some ch
  | .reqProdWrite .. | .rplConsWrite .. | .mgmtControlEnable .. | .mgmtControlRestart ..
  | .mgmtRingRegisterWrite .. | .otherRegisterWrite .. | .tick | .keepaliveExpiry .. | .waitExpiry .. | .fetchIssue
  | .fetchCompletion .. | .fetchError .. | .writeCompletion .. | .writeError .. | .teardownEnd .. | .deviceReset
  | .startupEnd => none

end Sys2Proof
end

