-- ==== Sys2Proof/Config.lean ====
section
/-! DEFINITION. What the LC16 fixes (spec/00, "Limits of the part") and what its manual leaves free. A free value is an
opaque constant with no body: no proof can see what it is, so a claim that holds is true whatever it is. -/

namespace Sys2Proof.Config

/-- The number of channels (R119). -/
def channels : Nat := 16

/-- The number of session records (R73). -/
def sessionRecords : Nat := 512

/-- The number of claim records (R24). -/
def claimRecords : Nat := 32768

/-- The number of buckets of the Resource Table (R2). -/
def buckets : Nat := 4096

/-- The number of ways of one bucket (R3). -/
def waysPerBucket : Nat := 4

/-- FREE VALUE (R26: "Any record on the free list may be taken, and which one is not stated"; log entry 4). Applied to
the count of free choices made so far, it says where the search for a free claim record starts. -/
opaque claimPick : Nat → Nat

/-- FREE VALUE (R37, R43, R80, R136: the parts of one channel fault or teardown at different entries have no stated order
but that of each session's claim list at a teardown; log entry 5). Applied to the count of free choices made so far, it
says which of the parts that may come next is taken. -/
opaque partPick : Nat → Nat

/-- FREE VALUE (R126, R130, R173: a ring whose base plus 64 times a position passes the top of the 64-bit address space has no
stated address there; log entry 25). Applied to the ring base and the position, it is the host address used. -/
opaque addressPast : BitVec 64 → Nat → BitVec 64

end Sys2Proof.Config
end

