-- ==== Sys2Proof/Machine/Table.lean ====
section
/-! DEFINITION. A sparse table: the records of a big memory (512 sessions, 32,768 claims, 16,384 ways) as the list of
those that differ from the reset record. Its ONE canonical form (indices strictly rising, no listed record equal to
the reset record) is carried with the data, so that tables with equal contents are equal. -/

namespace Sys2Proof.Machine

/-- The canonical form of a table's cells: indices strictly rising, no cell at the default. -/
abbrev CanonicalCells {α : Type} (d : α) (cells : List (Nat × α)) : Prop :=
  cells.Pairwise (fun a b => a.1 < b.1) ∧ ∀ p ∈ cells, p.2 ≠ d

/-- A table of records of type `α`, each of them `d` unless a cell lists it. -/
structure Table (α : Type) (d : α) where
  cells : List (Nat × α)
  canonical : CanonicalCells d cells
  deriving DecidableEq, Repr

/-- The record that a rising list of cells gives index `n`. -/
def cellsGet {α : Type} (d : α) : List (Nat × α) → Nat → α
  | [], _ => d
  | (k, v) :: t, n => if n = k then v else cellsGet d t n

/-- The cells with index `n` at `v`; a cell at the default is removed. -/
def cellsSet {α : Type} [DecidableEq α] (d : α) (n : Nat) (v : α) : List (Nat × α) → List (Nat × α)
  | [] => if v = d then [] else [(n, v)]
  | (k, w) :: t =>
    if n < k then (if v = d then (k, w) :: t else (n, v) :: (k, w) :: t)
    else if n = k then (if v = d then t else (n, v) :: t)
    else (k, w) :: cellsSet d n v t

theorem cellsSet_mem {α : Type} [DecidableEq α] {d : α} {n : Nat} {v : α} {cells : List (Nat × α)} {p : Nat × α} :
    p ∈ cellsSet d n v cells → (p = (n, v) ∧ v ≠ d) ∨ p ∈ cells := by
  induction cells with
  | nil =>
    intro h
    by_cases hv : v = d
    · simp [cellsSet, hv] at h
    · exact .inl ⟨by simpa [cellsSet, hv] using h, hv⟩
  | cons c t ih =>
    obtain ⟨k, w⟩ := c
    intro h
    unfold cellsSet at h
    split_ifs at h with hlt hv heq hv
    · exact .inr h
    · rcases List.mem_cons.mp h with h | h
      · exact .inl ⟨h, hv⟩
      · exact .inr h
    · exact .inr (List.mem_cons_of_mem _ h)
    · rcases List.mem_cons.mp h with h | h
      · exact .inl ⟨h, hv⟩
      · exact .inr (List.mem_cons_of_mem _ h)
    · rcases List.mem_cons.mp h with h | h
      · exact .inr (h ▸ List.mem_cons_self)
      · rcases ih h with h' | h'
        · exact .inl h'
        · exact .inr (List.mem_cons_of_mem _ h')

theorem cellsSet_canonical {α : Type} [DecidableEq α] {d : α} (n : Nat) (v : α) {cells : List (Nat × α)}
    (h : CanonicalCells d cells) : CanonicalCells d (cellsSet d n v cells) := by
  refine ⟨?_, ?_⟩
  · obtain ⟨hp, -⟩ := h
    induction cells with
    | nil => by_cases hv : v = d <;> simp [cellsSet, hv]
    | cons c t ih =>
      obtain ⟨k, w⟩ := c
      obtain ⟨hk, ht⟩ := List.pairwise_cons.mp hp
      simp only [cellsSet]
      split
      · split
        · exact hp
        · refine List.pairwise_cons.mpr ⟨?_, hp⟩
          intro p hm
          rcases List.mem_cons.mp hm with rfl | hm
          · assumption
          · exact Nat.lt_trans ‹_› (hk p hm)
      · split
        · subst_vars
          split
          · exact ht
          · exact List.pairwise_cons.mpr ⟨fun p hm => hk p hm, ht⟩
        · refine List.pairwise_cons.mpr ⟨?_, ih ht⟩
          intro p hm
          rcases cellsSet_mem hm with ⟨rfl, -⟩ | hm
          · show k < n
            omega
          · exact hk p hm
  · intro p hm
    rcases cellsSet_mem hm with ⟨rfl, hv⟩ | hm
    · exact hv
    · exact h.2 p hm

/-- The cells after `f` is applied to each listed record; records that become the default are removed. -/
def cellsMap {α : Type} [DecidableEq α] (d : α) (f : α → α) (cells : List (Nat × α)) : List (Nat × α) :=
  (cells.map fun p => (p.1, f p.2)).filter fun p => decide (p.2 ≠ d)

theorem cellsMap_canonical {α : Type} [DecidableEq α] {d : α} (f : α → α) {cells : List (Nat × α)}
    (h : CanonicalCells d cells) : CanonicalCells d (cellsMap d f cells) := by
  refine ⟨?_, ?_⟩
  · refine List.Pairwise.filter _ ?_
    exact List.pairwise_map.mpr h.1
  · intro p hm
    simpa [cellsMap] using (List.mem_filter.mp hm).2

namespace Table

/-- The record at index `n`. -/
def get {α : Type} {d : α} (t : Table α d) (n : Nat) : α := cellsGet d t.cells n

/-- The table with the record at index `n` made `v`. -/
def set {α : Type} {d : α} [DecidableEq α] (t : Table α d) (n : Nat) (v : α) : Table α d :=
  ⟨cellsSet d n v t.cells, cellsSet_canonical n v t.canonical⟩

/-- The table with `f` applied to every record that differs from the default. -/
def map {α : Type} {d : α} [DecidableEq α] (t : Table α d) (f : α → α) : Table α d :=
  ⟨cellsMap d f t.cells, cellsMap_canonical f t.canonical⟩

/-- The table whose every record is the default. -/
def empty {α : Type} {d : α} : Table α d := ⟨[], by simp [CanonicalCells]⟩

/-- The indices whose records differ from the default, rising. -/
def indices {α : Type} {d : α} (t : Table α d) : List Nat := t.cells.map (·.1)

/-- How many listed records satisfy `p`. -/
def count {α : Type} {d : α} (t : Table α d) (p : α → Bool) : Nat := (t.cells.filter fun c => p c.2).length

end Table

end Sys2Proof.Machine
end

