-- ==== Sys2Proof/Machine/State.lean ====
section
/-! DEFINITION. The records of the LC16 and its whole state, as the spec gives them; the reasons a step can stop; and the
state right after a device reset. Fields that R22 and R73 call optional are held by the constructor of the record's
state, so that a field is present exactly in the states the spec gives. -/

namespace Sys2Proof.Machine

/-- The mode of a claim (spec/00, "Modes"). -/
inductive Mode where
  | shared | update | exclusive
  deriving DecidableEq, Repr

/-- A channel's access level in one domain (R119). -/
inductive Level where
  | none | check | full
  deriving DecidableEq, Repr

/-- The state of a channel (R119, R120). -/
inductive ChanState where
  | off | active | faulted | closing
  deriving DecidableEq, Repr

/-- The fault cause of a channel (R119). -/
inductive Cause where
  | none | fetchError | writeError | badReqIndex | badRplIndex | badSetup
  deriving DecidableEq, Repr

/-- Why a session lapsed (R73). -/
inductive LapseReason where
  | expired | evicted
  deriving DecidableEq, Repr

/-- The queue that a blocking head stands in (R141). -/
inductive QueueKind where
  | convert | wait
  deriving DecidableEq, Repr

/-- The kind a reply carries (R168): the kind of the request answered, or the code 0x0000 for an unknown kind. -/
inductive Kind where
  | openSession | closeSession | keepalive | acquire | convert | release | cancel | checkFence
  | setupChannel | teardownChannel | restartChannel | setAccess | setLimits | setTick | evictSession
  | discardResource | inspectResource | inspectSession | inspectDevice
  | unknown
  deriving DecidableEq, Repr

/-- The statuses (spec/00, "Statuses"; R168). -/
inductive Status where
  | ok | granted | conflict | timedOut | cancelled | tooLate | notClaimed | lapsed | withdrawn
  | badRequest | badHandle | notPermitted | alreadyClaimed | quota | noRecord | noSlot | badConversion
  | conversionDeadlock | inProgress | wrongState | badValue | serialExhausted | busy | notFound
  deriving DecidableEq, Repr

/-- The verdict of CHECK_FENCE (R112). -/
inductive Verdict where
  | current | stale
  deriving DecidableEq, Repr

/-- The reason of a verdict (R112). -/
inductive Reason where
  | none | absent | noHolder | superseded
  deriving DecidableEq, Repr

/-- The state of a way (R3). -/
inductive WayState where
  | free | active | dormant
  deriving DecidableEq, Repr

/-- A key: a domain of 4 bits and a name of 64 bits (R1). -/
structure Key where
  domain : BitVec 4
  name : Name
  deriving DecidableEq, Repr

/-- The value block of a resource entry: its value state, and its 32-byte value when that is not ABSENT (R9, R114). -/
inductive ValueBlock where
  | absent
  | valid (v : ValueWord)
  | invalid (v : ValueWord)
  deriving DecidableEq, Repr

/-- An armed deadline of its owner: its tick, and whether it is due (R94, R97). -/
structure Deadline where
  tick : Tick
  due : Bool
  deriving DecidableEq, Repr

/-- What a WAITING or CONVERTING claim keeps of its wait: the pending request tag, and the wait deadline if the wait
limit was finite (R22). -/
structure Wait where
  tag : ReqTag
  deadline : Option Deadline
  deriving DecidableEq, Repr

/-- The state of a claim in use with its modes (R22). -/
inductive ClaimState where
  | waiting (wanted : Mode) (wait : Wait)
  | held (mode : Mode)
  | converting (mode wanted : Mode) (wait : Wait)
  deriving DecidableEq, Repr

/-- A claim in use (R22): the index of its session record, the way of its resource entry, its state, its serial from its
first entry into X on, and its noticed flag. -/
structure Claim where
  session : Nat
  way : Nat
  state : ClaimState
  serial : Option Serial
  noticed : Bool
  deriving DecidableEq, Repr

/-- A claim record: its tag, and the claim if the record is in use (R22). -/
structure ClaimRec where
  tag : BitVec 8
  claim : Option Claim
  deriving DecidableEq, Repr

/-- A claim record after device reset (R31). -/
def ClaimRec.reset : ClaimRec := ⟨0, none⟩

/-- The fields of an OPEN session (R73). The claim count is the length of the claim list. -/
structure OpenSession where
  channel : Nat
  period : BitVec 16
  deadline : Deadline
  notices : Bool
  claims : List Nat
  deriving DecidableEq, Repr

/-- The fields of a LAPSED session (R73). Its claim list is always empty. -/
structure LapsedSession where
  channel : Nat
  reason : LapseReason
  noticePending : Bool
  deriving DecidableEq, Repr

/-- The state of a session record with the fields of that state (R73). -/
inductive SessionState where
  | free
  | opened (o : OpenSession)
  | lapsed (l : LapsedSession)
  deriving DecidableEq, Repr

/-- A session record (R73). -/
structure SessionRec where
  tag : BitVec 7
  state : SessionState
  deriving DecidableEq, Repr

/-- A session record after device reset (R92). -/
def SessionRec.reset : SessionRec := ⟨0, .free⟩

/-- A resource entry (R6 to R9): its key, its three lists of claim indices, its fence serial and its value block. -/
structure Entry where
  key : Key
  holders : List Nat
  converts : List Nat
  waits : List Nat
  serial : Serial
  value : ValueBlock
  deriving DecidableEq, Repr

/-- A way of the Resource Table (R3). -/
inductive Way where
  | free
  | active (e : Entry)
  | dormant (e : Entry)
  deriving DecidableEq, Repr

/-- A notice (R141), with the record it speaks of and its content as fixed when it was raised. -/
inductive Notice where
  | contention (claim : Nat) (claimHandle : ClaimHandle) (sessionHandle : SessionHandle) (key : Key)
      (held wanted : Mode) (queue : QueueKind) (tick : Tick)
  | sessionLapsed (session : Nat) (handle : SessionHandle) (reason : LapseReason) (tick : Tick) (withdrawn : Nat)
  | channelFaulted (channel : Nat) (cause : Cause) (tick : Tick)
  deriving DecidableEq, Repr

/-- The ring configuration of a channel (R119): bases, sizes in entries, and the interrupt vector. -/
structure Rings where
  reqBase : HostAddr
  reqSize : Nat
  rplBase : HostAddr
  rplSize : Nat
  vector : Nat
  deriving DecidableEq, Repr

/-- A reply or notice write in flight: the host address it goes to and the 64 bytes it carries (R130, R173). -/
structure DmaWrite where
  address : HostAddr
  bytes : RingEntry
  deriving DecidableEq, Repr

/-- The fetch of a channel. The fetch-in-flight flag is set in the last two cases (R126, R127): while the DMA read of
`count` entries from position `start` is in flight, and after its completion while entries of it are still to be taken
(the entry next to be taken first). -/
inductive Fetch where
  | idle
  | reading (start count : Nat)
  | taking (rest : List Instr)
  deriving DecidableEq, Repr

/-- A channel record (R119). Writes in flight is the length of `writes`, oldest first. -/
structure Channel where
  state : ChanState
  rings : Option Rings
  sessionLimit : Nat
  claimLimit : Nat
  access : Table Level Level.none
  reqProd : Nat
  reqCons : Nat
  rplProd : Nat
  rplCons : Nat
  phase : Bool
  writes : List DmaWrite
  owed : Nat
  armed : Bool
  fetch : Fetch
  notices : List Notice
  cause : Cause
  deriving DecidableEq, Repr

/-- A channel record after device reset, and after a teardown (R119, R139). -/
def Channel.reset : Channel where
  state := .off
  rings := none
  sessionLimit := 0
  claimLimit := 0
  access := Table.empty
  reqProd := 0
  reqCons := 0
  rplProd := 0
  rplCons := 0
  phase := true
  writes := []
  owed := 0
  armed := false
  fetch := .idle
  notices := []
  cause := .none

/-- The management ring registers, as written (R152, R172). -/
structure MgmtRegs where
  reqBase : BitVec 64
  reqSize : BitVec 32
  rplBase : BitVec 64
  rplSize : BitVec 32
  vector : BitVec 32
  deriving DecidableEq, Repr

/-- The LC16. `pending` is the queue of the commands that wait, `interrupts` the vectors of the interrupt messages sent,
oldest first, and `choices` the count of free choices made: these three are the model's own fields (INVENTORY.md,
State). Ways are numbered 4b to 4b+3 in bucket b, and a dormant order lists way numbers. -/
structure State where
  ready : Bool
  mgmt : MgmtRegs
  channels : Table Channel Channel.reset
  lastGranted : Nat
  teardownReplies : Table (Option ReqTag) none
  sessions : Table SessionRec SessionRec.reset
  claims : Table ClaimRec ClaimRec.reset
  ways : Table Way Way.free
  dormant : Table (List Nat) []
  nextSerial : Option Serial
  now : Tick
  period : BitVec 32
  requestedPeriod : Option (BitVec 32)
  interrupts : List Nat
  choices : Nat
  pending : List Instr
  deriving DecidableEq, Repr

/-- The reasons a command can stop the machine: none. The spec names no event that stops the LC16; a channel fault is a
state of the channel, and a command whose event cannot happen is passed over (log entry 2). -/
inductive Fault where
  deriving DecidableEq, Repr

/-- The reasons a command has no meaning in the model. -/
inductive Refusal where
  /-- Raised by `exec` for a row of the opcode table that has no meaning yet; safe. No arm of `exec` uses it. -/
  | notModelled (mnemonic : String)
  deriving DecidableEq, Repr

/-- The LC16 right after a device reset, at the start of device start-up (R151): READY 0, every table and record at its
device reset value. -/
def State.reset : State where
  ready := false
  mgmt := ⟨0, 0, 0, 0, 0⟩
  channels := Table.empty
  lastGranted := 15
  teardownReplies := Table.empty
  sessions := Table.empty
  claims := Table.empty
  ways := Table.empty
  dormant := Table.empty
  nextSerial := some 1
  now := 0
  period := 1000
  requestedPeriod := none
  interrupts := []
  choices := 0
  pending := []

end Sys2Proof.Machine
end

