-- ==== Sys2Proof/Machine/Operands.lean ====
section
/-! DEFINITION. The operands of requests and the coded fields of replies: codes, modes and their compatibility, handles,
keys and the bucket hash, wait limits, and the range checks of ring settings (R2, R32, R52, R54, R157, R167, R168). -/

namespace Sys2Proof.Machine

/-- The code of a mode (R167). -/
def Mode.code : Mode → BitVec 8
  | .shared => 1
  | .update => 2
  | .exclusive => 3

/-- The mode that a coded field holds, if it is in range (R167, R46). -/
def Mode.ofCode (c : BitVec 8) : Option Mode :=
  if c = 1 then some .shared else if c = 2 then some .update else if c = 3 then some .exclusive else none

/-- The mode code of a reply: 0 for no mode (R167). -/
def modeCode : Option Mode → BitVec 8
  | some m => m.code
  | none => 0

/-- The code of an access level (R167). -/
def Level.code : Level → BitVec 8
  | .none => 0
  | .check => 1
  | .full => 2

/-- The access level that a coded field holds, if it is in range (R167, R161). -/
def Level.ofCode (c : BitVec 8) : Option Level :=
  if c = 0 then some .none else if c = 1 then some .check else if c = 2 then some .full else Option.none

/-- The code of a value state (R167). -/
def ValueBlock.code : ValueBlock → BitVec 8
  | .absent => 0
  | .valid _ => 1
  | .invalid _ => 2

/-- The 32 bytes of a value block, zero when it is ABSENT (R116). -/
def ValueBlock.word : ValueBlock → ValueWord
  | .absent => 0
  | .valid v => v
  | .invalid v => v

/-- The code of a way state (R167). -/
def WayState.code : WayState → BitVec 8
  | .free => 0
  | .active => 1
  | .dormant => 2

/-- The code of a lapse reason (R167). -/
def LapseReason.code : LapseReason → BitVec 8
  | .expired => 1
  | .evicted => 2

/-- The code of a verdict (R167). -/
def Verdict.code : Verdict → BitVec 8
  | .current => 1
  | .stale => 2

/-- The code of a verdict's reason (R167). -/
def Reason.code : Reason → BitVec 8
  | .none => 0
  | .absent => 1
  | .noHolder => 2
  | .superseded => 3

/-- The code of the queue of a blocking head (R167). -/
def QueueKind.code : QueueKind → BitVec 8
  | .convert => 1
  | .wait => 2

/-- The code of a channel state (R167). -/
def ChanState.code : ChanState → BitVec 2
  | .off => 0
  | .active => 1
  | .faulted => 2
  | .closing => 3

/-- The code of a fault cause (R167). -/
def Cause.code : Cause → BitVec 4
  | .none => 0
  | .fetchError => 1
  | .writeError => 2
  | .badReqIndex => 3
  | .badRplIndex => 4
  | .badSetup => 5

/-- The kind code of a reply (R168). -/
def Kind.code : Kind → BitVec 16
  | .openSession => 0x01
  | .closeSession => 0x02
  | .keepalive => 0x03
  | .acquire => 0x04
  | .convert => 0x05
  | .release => 0x06
  | .cancel => 0x07
  | .checkFence => 0x08
  | .setupChannel => 0x20
  | .teardownChannel => 0x21
  | .restartChannel => 0x22
  | .setAccess => 0x23
  | .setLimits => 0x24
  | .setTick => 0x25
  | .evictSession => 0x26
  | .discardResource => 0x27
  | .inspectResource => 0x28
  | .inspectSession => 0x29
  | .inspectDevice => 0x2A
  | .unknown => 0

/-- The status codes (R168). -/
def Status.code : Status → BitVec 8
  | .ok => 0x00
  | .granted => 0x01
  | .conflict => 0x02
  | .timedOut => 0x03
  | .cancelled => 0x04
  | .tooLate => 0x05
  | .notClaimed => 0x06
  | .lapsed => 0x07
  | .withdrawn => 0x08
  | .badRequest => 0x10
  | .badHandle => 0x11
  | .notPermitted => 0x12
  | .alreadyClaimed => 0x13
  | .quota => 0x14
  | .noRecord => 0x15
  | .noSlot => 0x16
  | .badConversion => 0x17
  | .conversionDeadlock => 0x18
  | .inProgress => 0x19
  | .wrongState => 0x1A
  | .badValue => 0x1B
  | .serialExhausted => 0x1C
  | .busy => 0x1D
  | .notFound => 0x1E

/-- Whether claims in two modes may be held on one resource at the same time (R32). -/
def Mode.compatible : Mode → Mode → Bool
  | .shared, .shared => true
  | .shared, .update => true
  | .update, .shared => true
  | .shared, .exclusive => false
  | .update, .update => false
  | .update, .exclusive => false
  | .exclusive, .shared => false
  | .exclusive, .update => false
  | .exclusive, .exclusive => false

/-- The mode order S, U, X (R48). -/
def Mode.rank : Mode → Nat
  | .shared => 0
  | .update => 1
  | .exclusive => 2

/-- What a pair of held mode and new mode asks for (R54). -/
inductive Conversion where
  | upgrade | downgrade | bad
  deriving DecidableEq, Repr

/-- The kind of a conversion from a held mode to a new mode (R54). -/
def conversionKind : Mode → Mode → Conversion
  | .shared, .shared => .bad
  | .shared, .update => .upgrade
  | .shared, .exclusive => .bad
  | .update, .shared => .downgrade
  | .update, .update => .bad
  | .update, .exclusive => .upgrade
  | .exclusive, .shared => .downgrade
  | .exclusive, .update => .downgrade
  | .exclusive, .exclusive => .bad

/-- The mode that a claim in this state holds (R22). -/
def ClaimState.heldMode : ClaimState → Option Mode
  | .waiting _ _ => none
  | .held m => some m
  | .converting m _ _ => some m

/-- The mode that a claim in this state wants (R22). -/
def ClaimState.wantedMode : ClaimState → Option Mode
  | .waiting m _ => some m
  | .held _ => none
  | .converting _ m _ => some m

/-- The wait of a claim in this state (R22). -/
def ClaimState.wait : ClaimState → Option Wait
  | .waiting _ w => some w
  | .held _ => none
  | .converting _ _ w => some w

/-- The session handle that names no session (spec/00, "Session handles"). -/
def noSession : SessionHandle := 0xFFFF

/-- The handle of a session record from its index and tag (R167). -/
def sessionHandle (index : Nat) (tag : BitVec 7) : SessionHandle := tag ++ BitVec.ofNat 9 index

/-- The session index of a handle (R167). -/
def sessionIndex (h : SessionHandle) : Nat := (h.extractLsb' 0 9).toNat

/-- The tag of a session handle (R167). -/
def sessionTag (h : SessionHandle) : BitVec 7 := h.extractLsb' 9 7

/-- The handle of a claim record from its index and tag (R167). -/
def claimHandle (index : Nat) (tag : BitVec 8) : ClaimHandle := 0#9 ++ tag ++ BitVec.ofNat 15 index

/-- The claim index of a handle (R167). -/
def claimIndex (h : ClaimHandle) : Nat := (h.extractLsb' 0 15).toNat

/-- The tag of a claim handle (R167). -/
def claimTag (h : ClaimHandle) : BitVec 8 := h.extractLsb' 15 8

/-- Whether any of the 9 zero bits of a claim handle is set (R29). -/
def claimHandleMalformed (h : ClaimHandle) : Bool := h.extractLsb' 23 9 != 0

/-- The key of a request's domain byte and name, if the domain is in range (R46). -/
def keyOf (domain : BitVec 8) (name : Name) : Option Key :=
  if domain ≤ 15 then some ⟨domain.setWidth 4, name⟩ else none

/-- The 12-bit slice `i` of the 72-bit quantity of a key (R2). -/
def Key.slice (k : Key) (i : Nat) : BitVec 12 := (0#4 ++ k.domain ++ k.name).extractLsb' (12 * i) 12

/-- The bucket index of a key: the exclusive-OR of its six slices (R2). -/
def Key.bucket (k : Key) : Nat :=
  (k.slice 0 ^^^ k.slice 1 ^^^ k.slice 2 ^^^ k.slice 3 ^^^ k.slice 4 ^^^ k.slice 5).toNat

/-- The wait deadline that a wait limit from 1 to 65,535 arms at `now`: none for 65,535 (R52, R99). -/
def waitDeadline (now : Tick) (limit : BitVec 16) : Option Deadline :=
  if limit = 0xFFFF then none else some ⟨now + limit.setWidth 32, false⟩

/-- The keepalive deadline armed at `now` (R98). -/
def keepaliveDeadline (now : Tick) (period : BitVec 16) : Deadline := ⟨now + period.setWidth 32, false⟩

/-- Whether a ring size is a power of two from 16 to 4,096 (R153, R157). -/
def ringSizeValid (n : Nat) : Bool := n ∈ [16, 32, 64, 128, 256, 512, 1024, 2048, 4096]

/-- Whether a ring base is a multiple of 64 (R153, R157). -/
def ringBaseValid (a : HostAddr) : Bool := a.toNat % 64 == 0

/-- Whether ring settings are valid (R153, R157): sizes, bases and the vector. -/
def Rings.valid (r : Rings) : Bool :=
  ringSizeValid r.reqSize && ringSizeValid r.rplSize && ringBaseValid r.reqBase && ringBaseValid r.rplBase
    && decide (r.vector ≤ 15)

/-- The target channel of a management request, if it is in range and not channel 0 (R156). -/
def targetOf (target : BitVec 8) : Option Nat :=
  if target = 0 ∨ 15 < target then none else some target.toNat

/-- `a` minus `b` modulo a ring size `n` (R123, R129). -/
def ringDiff (a b n : Nat) : Nat := (a + (n - b % n)) % n

end Sys2Proof.Machine
end

