-- ==== Sys2Proof/Machine/Replies.lean ====
section
/-! DEFINITION. Reply and notice entries: what each carries (R39, R141, R164, R165) and its 64 bytes (R170, R171). -/

namespace Sys2Proof.Machine

/-- The body of a reply, by the fields that R170 lists for its kind and status. -/
inductive ReplyBody where
  /-- The header only. -/
  | header
  /-- GRANTED (R39): claim handle, mode, value block, grant tick, serial (0 unless the mode is X). -/
  | granted (claim : ClaimHandle) (mode : Mode) (value : ValueBlock) (tick : Tick) (serial : Serial)
  /-- Claim handle and mode, or no mode for a WAITING claim (R55, R58, R65). -/
  | claimMode (claim : ClaimHandle) (mode : Option Mode)
  /-- Session handle and the tick of its deadline (R76, R79). -/
  | sessionTick (session : SessionHandle) (tick : Tick)
  /-- A verdict with its reason and serial (R112). -/
  | fence (verdict : Verdict) (reason : Reason) (serial : Serial)
  /-- The level held before a SET_ACCESS (R161). -/
  | level (old : Level)
  /-- INSPECT_RESOURCE (R164). -/
  | resource (way : WayState) (holders : Nat) (exclusive : SessionHandle) (converts waits : Nat) (serial : Serial)
      (value : ValueBlock)
  /-- INSPECT_SESSION of an OPEN session (R164). -/
  | openSession (channel claims : Nat) (remaining : Tick)
  /-- INSPECT_SESSION of a LAPSED session (R164). -/
  | lapsedSession (channel : Nat) (reason : LapseReason)
  /-- INSPECT_DEVICE (R165). -/
  | device (freeClaims freeSessions : Nat) (serial : Serial) (now : Tick) (period : BitVec 32)
  deriving DecidableEq, Repr

/-- A reply before it is written (R170): the phase flag is the channel's at the write. -/
structure Reply where
  kind : Kind
  tag : ReqTag
  status : Status
  body : ReplyBody
  deriving DecidableEq, Repr

/-- The body bytes of a reply (R170). -/
def ReplyBody.bytes : ReplyBody → RingEntry
  | .header => 0
  | .granted claim mode value tick serial =>
      putAt 8 claim ||| putAt 14 mode.code ||| putAt 15 value.code ||| putAt 16 tick ||| putAt 20 serial
        ||| putAt 32 value.word
  | .claimMode claim mode => putAt 8 claim ||| putAt 14 (modeCode mode)
  | .sessionTick session tick => putAt 12 session ||| putAt 16 tick
  | .fence verdict reason serial => putAt 8 verdict.code ||| putAt 9 reason.code ||| putAt 20 serial
  | .level old => putAt 8 old.code
  | .resource way holders exclusive converts waits serial value =>
      putAt 8 way.code ||| putAt 9 value.code ||| putAt 10 (BitVec.ofNat 16 holders) ||| putAt 12 exclusive
        ||| putAt 14 (BitVec.ofNat 16 converts) ||| putAt 16 (BitVec.ofNat 16 waits) ||| putAt 20 serial
  | .openSession channel claims remaining =>
      putAt 8 (1#8) ||| putAt 9 (BitVec.ofNat 8 channel) ||| putAt 12 (BitVec.ofNat 16 claims) ||| putAt 16 remaining
  | .lapsedSession channel reason => putAt 8 (2#8) ||| putAt 9 (BitVec.ofNat 8 channel) ||| putAt 10 reason.code
  | .device freeClaims freeSessions serial now period =>
      putAt 8 (BitVec.ofNat 16 freeClaims) ||| putAt 10 (BitVec.ofNat 16 freeSessions) ||| putAt 12 period
        ||| putAt 16 now ||| putAt 20 serial

/-- The 64 bytes of a reply written with a phase flag (R170). -/
def Reply.bytes (r : Reply) (phase : Bool) : RingEntry :=
  putAt 0 r.kind.code ||| putAt 2 r.tag ||| putAt 4 r.status.code ||| putAt 5 (flagBit phase) ||| r.body.bytes

/-- The kind code of a notice (R168). -/
def Notice.code : Notice → BitVec 16
  | .contention .. => 0x0100
  | .sessionLapsed .. => 0x0101
  | .channelFaulted .. => 0x0102

/-- The body bytes of a notice (R171). -/
def Notice.body : Notice → RingEntry
  | .contention _ claim session key held wanted queue tick =>
      putAt 8 claim ||| putAt 12 session ||| putAt 14 held.code ||| putAt 15 wanted.code ||| putAt 16 tick
        ||| putAt 20 queue.code ||| putAt 21 (key.domain.setWidth 8) ||| putAt 24 key.name
  | .sessionLapsed _ session reason tick withdrawn =>
      putAt 8 (BitVec.ofNat 32 withdrawn) ||| putAt 12 session ||| putAt 14 reason.code ||| putAt 16 tick
  | .channelFaulted channel cause tick =>
      putAt 8 (BitVec.ofNat 8 channel) ||| putAt 9 (cause.code.setWidth 8) ||| putAt 16 tick

/-- The 64 bytes of a notice written with a phase flag: its request tag and status are zero (R171). -/
def Notice.bytes (n : Notice) (phase : Bool) : RingEntry :=
  putAt 0 n.code ||| putAt 5 (flagBit phase) ||| n.body

end Sys2Proof.Machine
end

