-- ==== Sys2Proof/Machine/Ops.lean ====
section
/-! DEFINITION. The named operations over the LC16's records: access to them, the reply ring's accounting, the handing of
replies and the raising and dropping of notices, the freeing of claims and sessions, the checks of handles, and the
taking of one fetched request. Every change of a record passes through the `set` of its table. -/

namespace Sys2Proof.Machine

/-! ### Access to the records -/

/-- The record of channel `n` (R119). -/
def State.chan (s : State) (n : Nat) : Channel := s.channels.get n

/-- Channel `n`'s record made `c`. -/
def State.setChan (s : State) (n : Nat) (c : Channel) : State := { s with channels := s.channels.set n c }

/-- Session record `i` (R73). -/
def State.session (s : State) (i : Nat) : SessionRec := s.sessions.get i

/-- Session record `i` made `r`. -/
def State.setSession (s : State) (i : Nat) (r : SessionRec) : State := { s with sessions := s.sessions.set i r }

/-- Claim record `c` (R22). -/
def State.claim (s : State) (c : Nat) : ClaimRec := s.claims.get c

/-- Claim record `c` made `r`. -/
def State.setClaim (s : State) (c : Nat) (r : ClaimRec) : State := { s with claims := s.claims.set c r }

/-- Way `w` of the Resource Table (R3). -/
def State.way (s : State) (w : Nat) : Way := s.ways.get w

/-- Way `w` made `x`. -/
def State.setWay (s : State) (w : Nat) (x : Way) : State := { s with ways := s.ways.set w x }

/-- The dormant order of bucket `b`, oldest first (R16). -/
def State.dormantOrder (s : State) (b : Nat) : List Nat := s.dormant.get b

/-- Bucket `b`'s dormant order made `l`. -/
def State.setDormant (s : State) (b : Nat) (l : List Nat) : State := { s with dormant := s.dormant.set b l }

/-- An entry that holds nothing: what a FREE way would show. -/
def Entry.blank : Entry := ⟨⟨0, 0⟩, [], [], [], 0, .absent⟩

/-- The entry that a way holds; a blank one for a FREE way. -/
def Way.entry : Way → Entry
  | .active e => e
  | .dormant e => e
  | .free => Entry.blank

/-- The state of a way (R3). -/
def Way.wayState : Way → WayState
  | .free => .free
  | .active _ => .active
  | .dormant _ => .dormant

/-- The resource entry at way `w`. -/
def State.entry (s : State) (w : Nat) : Entry := (s.way w).entry

/-- The claim in record `c`, if the record is in use. -/
def State.claimAt (s : State) (c : Nat) : Option Claim := (s.claim c).claim

/-- The mode that claim `c` holds, if it holds one (R22). -/
def State.heldMode (s : State) (c : Nat) : Option Mode := (s.claimAt c).bind (·.state.heldMode)

/-- The mode that claim `c` wants, if it wants one (R22). -/
def State.wantedMode (s : State) (c : Nat) : Option Mode := (s.claimAt c).bind (·.state.wantedMode)

/-- The current handle of claim record `c` (R167). -/
def State.claimHandle (s : State) (c : Nat) : ClaimHandle := Sys2Proof.Machine.claimHandle c (s.claim c).tag

/-- The current handle of session record `i` (R167). -/
def State.sessionHandle (s : State) (i : Nat) : SessionHandle := Sys2Proof.Machine.sessionHandle i (s.session i).tag

/-- The channel of a session record, while it is OPEN or LAPSED (R73). -/
def SessionRec.channel (r : SessionRec) : Option Nat :=
  match r.state with
  | .free => none
  | .opened o => some o.channel
  | .lapsed l => some l.channel

/-- The claim list of a session record (R80), empty unless it is OPEN. -/
def SessionRec.claims (r : SessionRec) : List Nat :=
  match r.state with
  | .opened o => o.claims
  | .free => []
  | .lapsed _ => []

/-- The channel of claim `c`: that of its session (R22). -/
def State.claimChannel (s : State) (c : Nat) : Option Nat := (s.claimAt c).bind fun b => (s.session b.session).channel

/-- The claim in record `c` changed by `f`; nothing for a free record. -/
def State.modClaim (s : State) (c : Nat) (f : Claim → Claim) : State :=
  match s.claimAt c with
  | some b => s.setClaim c ⟨(s.claim c).tag, some (f b)⟩
  | none => s

/-- The OPEN session in record `i` changed by `f`; nothing for a record that is not OPEN. -/
def State.modOpen (s : State) (i : Nat) (f : OpenSession → OpenSession) : State :=
  match (s.session i).state with
  | .opened o => s.setSession i ⟨(s.session i).tag, .opened (f o)⟩
  | .free => s
  | .lapsed _ => s

/-- The entry of an ACTIVE way `w` changed by `f`; nothing for a way that is not ACTIVE. -/
def State.modEntry (s : State) (w : Nat) (f : Entry → Entry) : State :=
  match s.way w with
  | .active e => s.setWay w (.active (f e))
  | .free => s
  | .dormant _ => s

/-! ### Rings and their counts -/

/-- The request ring size, 0 without a configuration. -/
def Channel.reqSize (c : Channel) : Nat :=
  match c.rings with
  | some r => r.reqSize
  | none => 0

/-- The reply ring size, 0 without a configuration. -/
def Channel.rplSize (c : Channel) : Nat :=
  match c.rings with
  | some r => r.rplSize
  | none => 0

/-- The pending count (R123). -/
def Channel.pendingCount (c : Channel) : Nat := ringDiff c.reqProd c.reqCons c.reqSize

/-- Reply entries written and not consumed (R129). -/
def Channel.written (c : Channel) : Nat := ringDiff c.rplProd c.rplCons c.rplSize + c.writes.length

/-- The capacity of the reply ring (R129). -/
def Channel.capacity (c : Channel) : Nat := c.rplSize - 1

/-- The unreserved free slots of the reply ring (R129). -/
def Channel.unreserved (c : Channel) : Nat := c.capacity - c.written - c.owed

/-- Whether the channel has DMA in flight: the fetch-in-flight flag is set or writes are in flight (R119, R138). -/
def Channel.dmaBusy (c : Channel) : Bool := decide (c.fetch ≠ .idle) || !c.writes.isEmpty

/-- Whether the channel is ready to fetch (R124). -/
def Channel.ready (c : Channel) : Bool :=
  decide (c.state = .active) && decide (c.fetch = .idle) && decide (1 ≤ c.pendingCount) && decide (1 ≤ c.unreserved)

/-- The position of the next reply-ring write (R130). -/
def Channel.writePosition (c : Channel) : Nat := (c.rplProd + c.writes.length) % c.rplSize

/-- The host address of position `pos` of a ring at `base`: the base plus 64 times the position (R126, R130, R173). Past the
top of the 64-bit address space the spec names no address, and the model's is a free value (log entry 25). -/
def ringAddress (base : HostAddr) (pos : Nat) : HostAddr :=
  if base.toNat + 64 * pos < 2 ^ 64 then base + BitVec.ofNat 64 (64 * pos) else Config.addressPast base pos

/-- The host address of a reply-ring position (R130, R173; log entry 25). -/
def Channel.replyAddress (c : Channel) (pos : Nat) : HostAddr :=
  match c.rings with
  | some r => ringAddress r.rplBase pos
  | none => 0

/-- The host addresses that a fetch of `count` entries from position `start` reads (R126, R173; log entry 25). -/
def Channel.fetchAddresses (c : Channel) (start count : Nat) : List HostAddr :=
  match c.rings with
  | some r => (List.range count).map fun k => ringAddress r.reqBase ((start + k) % r.reqSize)
  | none => []

/-- Steps 2 to 4 of R130: a DMA write issued at the next position with the current reply phase, which flips after the
last position. -/
def Channel.issue (c : Channel) (bytes : Bool → RingEntry) : Channel :=
  { c with
    writes := c.writes ++ [⟨c.replyAddress c.writePosition, bytes c.phase⟩]
    phase := if c.writePosition + 1 = c.rplSize then !c.phase else c.phase }

/-- The ring state of a channel that enters ACTIVE from OFF or by a restart (R121, R138). -/
def Channel.ringStart (c : Channel) : Channel :=
  { c with
    state := .active, reqProd := 0, reqCons := 0, rplProd := 0, rplCons := 0, phase := true, writes := [], owed := 0,
    armed := false, fetch := .idle, notices := [], cause := .none }

/-! ### Replies, interrupts and notices -/

/-- A reply handed to channel `ch` (R130): written into its reservation if the channel is ACTIVE, else dropped. -/
def State.hand (s : State) (ch : Nat) (r : Reply) : State :=
  if (s.chan ch).state = .active then
    s.setChan ch { (s.chan ch).issue r.bytes with owed := (s.chan ch).owed - 1 }
  else s

/-- A reply of header fields only: every refusal that carries nothing more, and a plain OK (R45, R170). -/
def State.reply (s : State) (ch : Nat) (kind : Kind) (tag : ReqTag) (status : Status) : State :=
  s.hand ch ⟨kind, tag, status, .header⟩

/-- The interrupt message of channel `ch`, sent on the vector of its configuration (R174). -/
def State.sendInterrupt (s : State) (ch : Nat) : State :=
  match (s.chan ch).rings with
  | some r => { s with interrupts := s.interrupts ++ [r.vector] }
  | none => s

/-- The lapse-notice pending flag of the session that a SESSION_LAPSED notice speaks of made `b` (R83). -/
def State.markLapse (s : State) (n : Notice) (b : Bool) : State :=
  match n with
  | .sessionLapsed i _ _ _ _ =>
    match (s.session i).state with
    | .lapsed l => s.setSession i ⟨(s.session i).tag, .lapsed { l with noticePending := b }⟩
    | .free => s
    | .opened _ => s
  | .contention .. => s
  | .channelFaulted .. => s

/-- A notice raised on channel `ch` (R142): written at once, kept in the pending-notice list, or not raised. -/
def State.raise (s : State) (ch : Nat) (n : Notice) : State :=
  let c := s.chan ch
  if c.state = .active then
    if c.notices = [] ∧ 1 ≤ c.unreserved then s.setChan ch (c.issue n.bytes)
    else (s.setChan ch { c with notices := c.notices ++ [n] }).markLapse n true
  else s

/-- Whether a notice is the CONTENTION notice of claim `c` (R145). -/
def Notice.contentionOf (c : Nat) : Notice → Bool
  | .contention i .. => i == c
  | .sessionLapsed .. => false
  | .channelFaulted .. => false

/-- Whether a notice is the SESSION_LAPSED notice of session record `i` (R145). -/
def Notice.lapseOf (i : Nat) : Notice → Bool
  | .sessionLapsed j .. => j == i
  | .contention .. => false
  | .channelFaulted .. => false

/-- Whether a notice is the CHANNEL_FAULTED notice of channel `n` (R145). -/
def Notice.faultOf (n : Nat) : Notice → Bool
  | .channelFaulted m .. => m == n
  | .contention .. => false
  | .sessionLapsed .. => false

/-- The notices of channel `ch` that `p` tells are dropped; those behind move up (R145, R147). -/
def State.dropNotices (s : State) (ch : Nat) (p : Notice → Bool) : State :=
  s.setChan ch { s.chan ch with notices := (s.chan ch).notices.filter fun n => !p n }

/-- The CONTENTION notice of claim `c` that waits in its channel's list is dropped (R147). -/
def State.dropContention (s : State) (c : Nat) : State :=
  match s.claimChannel c with
  | some ch => s.dropNotices ch (Notice.contentionOf c)
  | none => s

/-- What a change of claim `c`'s held mode does to its noticed flag and its pending notice (R42, R147). -/
def State.clearNoticed (s : State) (c : Nat) : State :=
  (s.modClaim c fun b => { b with noticed := false }).dropContention c

/-! ### Claims -/

/-- The entry without claim `c` in any of its lists; the claims behind move up (R6, R7, R8). -/
def Entry.without (c : Nat) (e : Entry) : Entry :=
  { e with
    holders := e.holders.filter (· != c), converts := e.converts.filter (· != c), waits := e.waits.filter (· != c) }

/-- The freeing of claim `c` (R28): it leaves its entry's lists and its session's list, its pending CONTENTION notice is
dropped, its fields are discarded (its wait deadline with them), and its tag advances. -/
def State.freeClaim (s : State) (c : Nat) : State :=
  match s.claimAt c with
  | some b =>
    (((s.dropContention c).modEntry b.way (Entry.without c)).modOpen b.session fun o =>
      { o with claims := o.claims.filter (· != c) }).setClaim c ⟨(s.claim c).tag + 1, none⟩
  | none => s

/-- The number of free claim records (R24). -/
def State.freeClaims (s : State) : Nat := Config.claimRecords - s.claims.count (·.claim.isSome)

/-- The number of FREE session records (R165). -/
def State.freeSessions (s : State) : Nat := Config.sessionRecords - s.sessions.count (·.channel.isSome)

/-- The first free claim record at or after `k`, taken around the pool, among the next `fuel` records. -/
def State.searchFreeClaim (s : State) : Nat → Nat → Nat
  | 0, k => k % Config.claimRecords
  | fuel + 1, k =>
    if (s.claimAt (k % Config.claimRecords)).isNone then k % Config.claimRecords else s.searchFreeClaim fuel (k + 1)

/-- The record that the Claim Pool takes from its free list next: any free record, which one is a free value (R26; log
entry 4). -/
def State.pickClaim (s : State) : Nat := s.searchFreeClaim Config.claimRecords (Config.claimPick s.choices)

/-- The lowest-numbered FREE session record from `k` on, among the next `fuel` records (R76). -/
def State.searchFreeSession (s : State) : Nat → Nat → Option Nat
  | 0, _ => none
  | fuel + 1, k => if (s.session k).channel.isNone then some k else s.searchFreeSession fuel (k + 1)

/-- Claim record `c` allocated to session `i` at way `w` (R26): it joins the tail of the session's claim list and, by its
state, the holder list or the wait queue of the entry. -/
def State.allocate (s : State) (c i w : Nat) (st : ClaimState) : State :=
  let s := s.setClaim c ⟨(s.claim c).tag, some ⟨i, w, st, none, false⟩⟩
  let s := s.modOpen i fun o => { o with claims := o.claims ++ [c] }
  let s := s.modEntry w fun e =>
    if st.heldMode.isSome then { e with holders := e.holders ++ [c] } else { e with waits := e.waits ++ [c] }
  { s with choices := s.choices + 1 }

/-! ### Sessions -/

/-- The tag of session record `i` after it is freed (R75): record 511 wraps from 126 to 0. -/
def nextSessionTag (i : Nat) (tag : BitVec 7) : BitVec 7 := if i = 511 ∧ tag = 126 then 0 else tag + 1

/-- The freeing of session record `i` (R87): every field but the tag is discarded, and the tag advances. -/
def State.freeSession (s : State) (i : Nat) : State := s.setSession i ⟨nextSessionTag i (s.session i).tag, .free⟩

/-- The renewal of session `i` (R78): its deadline is armed again at now plus its period. -/
def State.renew (s : State) (i : Nat) : State :=
  s.modOpen i fun o => { o with deadline := keepaliveDeadline s.now o.period }

/-- The OPEN and LAPSED session records of channel `ch`, in increasing order of index. -/
def State.sessionsOf (s : State) (ch : Nat) : List Nat :=
  s.sessions.indices.filter fun i => (s.session i).channel == some ch

/-- The session count of channel `ch` (R77). -/
def State.sessionCount (s : State) (ch : Nat) : Nat := (s.sessionsOf ch).length

/-- The claims in use of channel `ch`'s sessions, by session index and then in claim-list order. -/
def State.claimsOf (s : State) (ch : Nat) : List Nat := (s.sessionsOf ch).flatMap fun i => (s.session i).claims

/-- The number of claims in use by all sessions of channel `ch` (R49, R77). -/
def State.claimCount (s : State) (ch : Nat) : Nat := (s.claimsOf ch).length

/-- The outcome of the handle check (R75). -/
inductive SessionCheck where
  | bad
  | lapsed (i : Nat)
  | opened (i : Nat)
  deriving DecidableEq, Repr

/-- The check of a session handle (R47, R75): on a client channel with the channel comparison, on channel 0 (`none`)
without it. -/
def State.checkSession (s : State) (ch : Option Nat) (h : SessionHandle) : SessionCheck :=
  if h = noSession ∨ (s.session (sessionIndex h)).tag ≠ sessionTag h then .bad
  else
    match (s.session (sessionIndex h)).state with
    | .free => .bad
    | .opened o => if ch = none ∨ ch = some o.channel then .opened (sessionIndex h) else .bad
    | .lapsed l => if ch = none ∨ ch = some l.channel then .lapsed (sessionIndex h) else .bad

/-- The check of a claim handle from channel `ch` (R29): the index of the claim it names, if it passes. -/
def State.checkClaim (s : State) (ch : Nat) (h : ClaimHandle) : Option Nat :=
  match s.claimAt (claimIndex h) with
  | some b =>
    if claimHandleMalformed h = false ∧ (s.claim (claimIndex h)).tag = claimTag h
        ∧ (s.session b.session).channel = some ch then some (claimIndex h)
    else none
  | none => none

/-! ### Taking a request -/

/-- The entry of channel `ch` that is next to be taken (R127). -/
def State.nextRequest (s : State) (ch : Nat) : Option Instr :=
  if (s.chan ch).state = .active then
    match (s.chan ch).fetch with
    | .taking (i :: _) => some i
    | .taking [] => none
    | .idle => none
    | .reading _ _ => none
  else none

/-- The fetch of a channel once its first entry is taken: the fetch-in-flight flag clears with the last (R127). -/
def Fetch.afterTaking : Fetch → Fetch
  | .taking (_ :: j :: rest) => .taking (j :: rest)
  | .taking [_] => .idle
  | .taking [] => .idle
  | .idle => .idle
  | .reading a n => .reading a n

/-- Channel `ch` with its next entry taken from the completed fetch. -/
def State.popRequest (s : State) (ch : Nat) : State :=
  s.setChan ch { s.chan ch with fetch := (s.chan ch).fetch.afterTaking }

/-- Request `i` is taken on channel `ch` and its handler acts (R127), if it is the entry next to be taken there. A
request command that is not is no event of the part, and nothing happens (log entries 2 and 3). -/
def takeRequest (ch : Fin 16) (i : Instr) (handler : State → State) (s : State) : Host.Outcome State Fault Refusal :=
  if s.nextRequest ch = some i then .next (handler (s.popRequest ch)) else .next s

end Sys2Proof.Machine
end

