-- ==== Sys2Proof/Machine/Grant.lean ====
section
/-! DEFINITION. The lease core: the lookup of keys and the life of ways (spec/01), the Fence Counter (spec/06), the answers
to waits, the grant pass with its contention step (spec/02), and the withdrawals that lapses, closes, faults and
teardowns make. Each event at an entry ends with `State.finish`: the grant pass and then the decision about the way. -/

namespace Sys2Proof.Machine

/-! ### The Resource Table -/

/-- The four ways of bucket `b`. -/
def bucketWays (b : Nat) : List Nat := (List.range Config.waysPerBucket).map (Config.waysPerBucket * b + ·)

/-- The bucket of way `w`. -/
def bucketOf (w : Nat) : Nat := w / Config.waysPerBucket

/-- Whether way `w` is ACTIVE or DORMANT and holds key `k` (R4). -/
def State.holdsKey (s : State) (k : Key) (w : Nat) : Bool :=
  match s.way w with
  | .active e => e.key == k
  | .dormant e => e.key == k
  | .free => false

/-- The lookup of a key (R4): the way of its bucket that holds it, if any. -/
def State.lookup (s : State) (k : Key) : Option Nat := (bucketWays k.bucket).find? (s.holdsKey k)

/-- A DORMANT way `w` leaves its bucket's dormant order and becomes `x` (R11, R13, R17). -/
def State.leaveDormant (s : State) (w : Nat) (x : Way) : State :=
  (s.setDormant (bucketOf w) ((s.dormantOrder (bucketOf w)).filter (· != w))).setWay w x

/-- The entry of an absent key placed in way `w` (R10). -/
def State.createAt (s : State) (w : Nat) (k : Key) : State :=
  s.setWay w (.active { Entry.blank with key := k })

/-- The way in which an ACQUIRE that has passed its earlier checks is taken (R10, R12, R13): the ACTIVE way of its key,
its reactivated DORMANT way, or a new entry in the lowest-numbered FREE way or in the way evicted from the head of the
dormant order; none when all four ways are ACTIVE. -/
def State.place (s : State) (k : Key) : Option (Nat × State) :=
  match s.lookup k with
  | some w =>
    match s.way w with
    | .dormant e => some (w, s.leaveDormant w (.active e))
    | .active _ => some (w, s)
    | .free => none
  | none =>
    match (bucketWays k.bucket).find? fun w => decide (s.way w = .free) with
    | some w => some (w, s.createAt w k)
    | none =>
      match s.dormantOrder k.bucket with
      | w :: _ => some (w, (s.leaveDormant w .free).createAt w k)
      | [] => none

/-- What becomes of way `w` at the end of an event at it (R14, R15): it stays ACTIVE while a list holds a claim, is
retired with value state ABSENT, and else becomes DORMANT at the tail of its bucket's dormant order. -/
def State.settle (s : State) (w : Nat) : State :=
  match s.way w with
  | .active e =>
    if e.holders = [] ∧ e.converts = [] ∧ e.waits = [] then
      match e.value with
      | .absent => s.setWay w .free
      | .valid _ => (s.setDormant (bucketOf w) (s.dormantOrder (bucketOf w) ++ [w])).setWay w (.dormant e)
      | .invalid _ => (s.setDormant (bucketOf w) (s.dormantOrder (bucketOf w) ++ [w])).setWay w (.dormant e)
    else s
  | .dormant _ => s
  | .free => s

/-! ### Values -/

/-- VALID becomes INVALID with its content kept; INVALID and ABSENT stay (R82, R91, R114). -/
def ValueBlock.invalidated : ValueBlock → ValueBlock
  | .absent => .absent
  | .valid v => .invalid v
  | .invalid v => .invalid v

/-- What an exclusive holder's flags do to the value block as it leaves X (R62). -/
def ValueBlock.written (b : ValueBlock) (present invalidate : Bool) (value : ValueWord) : ValueBlock :=
  if present then .valid value else if invalidate then b.invalidated else b

/-! ### Grants -/

/-- A serial drawn for claim `c` at way `w` (R37, R106, R107): the claim and the entry take the next serial, and the
counter advances, or is exhausted by the last one. -/
def State.draw (s : State) (c w : Nat) : State :=
  match s.nextSerial with
  | some n =>
    { (s.modClaim c fun b => { b with serial := some n }).modEntry w fun e => { e with serial := n } with
      nextSerial := if n = BitVec.allOnes 48 then none else some (n + 1) }
  | none => s

/-- The GRANTED reply for claim `c` at way `w` as they stand (R39). -/
def State.grantedReply (s : State) (kind : Kind) (tag : ReqTag) (c w : Nat) (m : Mode) : Reply :=
  ⟨kind, tag, .granted,
    .granted (s.claimHandle c) m (s.entry w).value s.now (if m = .exclusive then (s.entry w).serial else 0)⟩

/-- A reply handed to the channel of claim `c` (R22). -/
def State.handClaim (s : State) (c : Nat) (r : Reply) : State :=
  match s.claimChannel c with
  | some ch => s.hand ch r
  | none => s

/-- Claim `c` at way `w` HELD in mode `m` (R35, R36, R50, R57), with a serial drawn for X (R37). -/
def State.hold (s : State) (c w : Nat) (m : Mode) : State :=
  let s := s.modClaim c fun b => { b with state := .held m }
  if m = .exclusive then s.draw c w else s

/-- A grant of claim `c` at way `w` in mode `m`: HELD in that mode, and the GRANTED reply handed to its channel (R39). -/
def State.grant (s : State) (kind : Kind) (tag : ReqTag) (c w : Nat) (m : Mode) : State :=
  let s := s.hold c w m
  s.handClaim c (s.grantedReply kind tag c w m)

/-- Whether mode `m` is compatible with the held modes of the holders of an entry, claim `except` left out (R33). -/
def State.admits (s : State) (e : Entry) (m : Mode) (except : Option Nat) : Bool :=
  e.holders.all fun c =>
    some c == except || match s.heldMode c with
      | some h => h.compatible m
      | none => true

/-! ### The ends of waits -/

/-- A CONVERTING claim leaves the convert queue and goes back to HELD at its old mode (R23, R58). -/
def State.endConversion (s : State) (c : Nat) : State :=
  match s.claimAt c with
  | some b =>
    match b.state with
    | .converting m _ _ =>
      (s.modEntry b.way fun e => { e with converts := e.converts.filter (· != c) }).modClaim c fun b =>
        { b with state := .held m }
    | .waiting _ _ => s
    | .held _ => s
  | none => s

/-- The deferred reply of claim `c` handed with a status (R53, R58). `full` says whether the answer to a conversion carries
the claim handle and the old mode. -/
def State.answer (s : State) (c : Nat) (status : Status) (full : Bool) : State :=
  match s.claimAt c with
  | some b =>
    match b.state with
    | .waiting _ w => s.handClaim c ⟨.acquire, w.tag, status, .header⟩
    | .converting m _ w =>
      s.handClaim c ⟨.convert, w.tag, status, if full then .claimMode (s.claimHandle c) (some m) else .header⟩
    | .held _ => s
  | none => s

/-- The end of claim `c`'s wait by a cancel, a timeout, a failure or a removal (R38, R60, R65, R66): the deferred reply is
handed, a WAITING claim is freed, and a CONVERTING one goes back to HELD. -/
def State.endWait (s : State) (c : Nat) (status : Status) : State :=
  match s.claimAt c with
  | some b =>
    match b.state with
    | .waiting _ _ => (s.answer c status true).freeClaim c
    | .converting _ _ _ => (s.answer c status true).endConversion c
    | .held _ => s
  | none => s

/-! ### The grant pass

A head that wants X is removed if the Fence Counter is exhausted at the moment the pass tests it (R38), also where a grant of
this very event at this entry drew the last serial: that exhaustion is itself an event at this entry (R38), and the entry is
settled when its pass ends (R40). R107 and R108 are read after them on this one point (DESIGN CHOICE; log entry 24). -/

/-- One turn of the first step of the grant pass (R35): the head of the convert queue removed (R38) or granted; none
when the queue is empty or its head is blocked. -/
def State.convertTurn (s : State) (w : Nat) : Option State :=
  match (s.entry w).converts with
  | [] => none
  | c :: _ =>
    match s.claimAt c with
    | some b =>
      match b.state with
      | .converting _ m wait =>
        if m = .exclusive ∧ s.nextSerial = none then some (s.endWait c .serialExhausted)
        else if s.admits (s.entry w) m (some c) then
          some (((s.clearNoticed c).modEntry w fun e => { e with converts := e.converts.filter (· != c) }).grant
            .convert wait.tag c w m)
        else none
      | .waiting _ _ => none
      | .held _ => none
    | none => none

/-- One turn of the second step of the grant pass (R36): the head of the wait queue removed (R38) or granted; none
when the convert queue is not empty, the wait queue is empty, or its head is blocked. -/
def State.waitTurn (s : State) (w : Nat) : Option State :=
  if (s.entry w).converts ≠ [] then none
  else
    match (s.entry w).waits with
    | [] => none
    | c :: _ =>
      match s.claimAt c with
      | some b =>
        match b.state with
        | .waiting m wait =>
          if m = .exclusive ∧ s.nextSerial = none then some (s.endWait c .serialExhausted)
          else if s.admits (s.entry w) m none then
            some ((s.modEntry w fun e =>
              { e with waits := e.waits.filter (· != c), holders := e.holders ++ [c] }).grant .acquire wait.tag c w m)
          else none
        | .converting _ _ _ => none
        | .held _ => none
      | none => none

/-- Turns taken until one is none, at most `fuel` of them. -/
def repeatTurn (turn : State → Option State) : Nat → State → State
  | 0, s => s
  | fuel + 1, s =>
    match turn s with
    | some t => repeatTurn turn fuel t
    | none => s

/-- The blocking head of an entry and its queue (R41). -/
def Entry.blockingHead (e : Entry) : Option (Nat × QueueKind) :=
  match e.converts with
  | c :: _ => some (c, .convert)
  | [] =>
    match e.waits with
    | c :: _ => some (c, .wait)
    | [] => none

/-- Whether session `i` is OPEN with notices enabled and its channel ACTIVE (R41). -/
def State.canBeTold (s : State) (i : Nat) : Bool :=
  match (s.session i).state with
  | .opened o => o.notices && decide ((s.chan o.channel).state = .active)
  | .free => false
  | .lapsed _ => false

/-- Holder `c` at way `w` is told of the blocking head, if it qualifies (R41, R143): the CONTENTION notice is raised and
its noticed flag is set. -/
def State.tell (s : State) (w : Nat) (head : Nat) (queue : QueueKind) (c : Nat) : State :=
  match s.claimAt c, s.heldMode c, s.wantedMode head with
  | some b, some held, some wanted =>
    if c ≠ head ∧ held.compatible wanted = false ∧ b.noticed = false ∧ s.canBeTold b.session then
      match s.claimChannel c with
      | some ch =>
        (s.raise ch (.contention c (s.claimHandle c) (s.sessionHandle b.session) (s.entry w).key held wanted queue
          s.now)).modClaim c fun b => { b with noticed := true }
      | none => s
    else s
  | _, _, _ => s

/-- The last step of the grant pass (R41): each holder in holder-list order is told if it qualifies. -/
def State.tellHolders (s : State) (w : Nat) : State :=
  match (s.entry w).blockingHead with
  | some (head, queue) => (s.entry w).holders.foldl (fun s c => s.tell w head queue c) s
  | none => s

/-- The grant pass at way `w` (R34 to R41): the convert queue from its head, then, if that queue is empty, the wait queue
from its head, then the contention step. -/
def State.grantPass (s : State) (w : Nat) : State :=
  let s := repeatTurn (·.convertTurn w) (s.entry w).converts.length s
  let s := repeatTurn (·.waitTurn w) (s.entry w).waits.length s
  s.tellHolders w

/-- The end of an event at way `w` (R34): the grant pass, and then the decision about the way. -/
def State.finish (s : State) (w : Nat) : State := (s.grantPass w).settle w

/-! ### Withdrawals -/

/-- Claim `c` withdrawn (R82, R86, R91): its deferred reply is handed with `status` if there is one, the claim is freed,
and, if `invalidate` and it was held in X, its entry's value is invalidated. -/
def State.withdraw (s : State) (c : Nat) (status : Option Status) (invalidate : Bool) : State :=
  match s.claimAt c with
  | some b =>
    let t := (match status with
      | some st => s.answer c st false
      | none => s).freeClaim c
    if invalidate ∧ b.state = .held .exclusive then
      t.modEntry b.way fun e => { e with value := e.value.invalidated }
    else t
  | none => s

/-- The wait of claim `c` withdrawn without a reply at a channel fault (R136): a WAITING claim is freed, a CONVERTING one
goes back to HELD, a HELD one is not touched. -/
def State.withdrawWait (s : State) (c : Nat) : State :=
  match s.claimAt c with
  | some b =>
    match b.state with
    | .waiting _ _ => s.freeClaim c
    | .converting _ _ _ => s.endConversion c
    | .held _ => s
  | none => s

/-- One claim's part of a lapse or a close (R43, R82, R86): its withdrawal, and the end of the event at its entry. -/
def State.withdrawPart (s : State) (c : Nat) (status : Option Status) (invalidate : Bool) : State :=
  match s.claimAt c with
  | some b => (s.withdraw c status invalidate).finish b.way
  | none => s

/-- The ways of the claims in a list, each once. -/
def State.waysOf (s : State) (claims : List Nat) : List Nat :=
  (claims.filterMap fun c => (s.claimAt c).map (·.way)).eraseDups

/-- One of a list picked by the free choice of count `k` (log entry 5). A list of one needs no choice. -/
def freePick (k : Nat) : List Nat → Option Nat
  | [] => none
  | [w] => some w
  | l => l[Config.partPick k % l.length]?

/-- Whether some list has way `x` before way `y`. -/
def precedes (lists : List (List Nat)) (x y : Nat) : Bool :=
  lists.any fun l => l.contains x && l.contains y && decide (l.idxOf x < l.idxOf y)

/-- The ways `ws`, and those of `rest` that the lists put before one of them in up to `fuel` steps through ways of `rest`. -/
def forerunners (lists : List (List Nat)) (rest : List Nat) : Nat → List Nat → List Nat
  | 0, ws => ws
  | fuel + 1, ws => forerunners lists rest fuel (rest.filter fun x => ws.contains x || ws.any (precedes lists x))

/-- The ways of `rest` that the lists put before way `w`, directly or through other ways of `rest`, and `w`. -/
def chainTo (lists : List (List Nat)) (rest : List Nat) (w : Nat) : List Nat := forerunners lists rest rest.length [w]

/-- Those of the ways `rest` that may be taken next (R80): a way that the lists put no other before, but for ways that they put
both before and behind it, in contradiction; and one that some list has first, if any list has it. -/
def nextParts (lists : List (List Nat)) (rest : List Nat) : List Nat :=
  rest.filter fun w => (chainTo lists rest w).all (fun x => (chainTo lists rest x).contains w)
    && (lists.all (fun l => !l.contains w) || lists.any fun l => l.find? rest.contains == some w)

/-- The order of the parts `rest` of one event (R43, R80; log entry 5): every list's order is followed but where lists
contradict each other on those very parts, and what is left open is picked by the free choices from count `k` on. -/
def partOrder (lists : List (List Nat)) : Nat → Nat → List Nat → List Nat
  | 0, _, rest => rest
  | fuel + 1, k, rest =>
    match freePick k (nextParts lists rest) with
    | some w => w :: partOrder lists fuel (k + 1) (rest.erase w)
    | none => rest

/-- The parts of a fault or teardown (R43, R91, R136): at each way of `claims`, in an order that follows the claim lists
`lists` (R80), those of them that stand there are withdrawn by `f`, and the event at the entry ends. -/
def State.withdrawAll (s : State) (lists : List (List Nat)) (claims : List Nat) (f : State → Nat → State) : State :=
  let ways := s.waysOf claims
  let parts := (partOrder (lists.map s.waysOf) ways.length s.choices ways).map fun w =>
    (w, claims.filter fun c => (s.claimAt c).map (·.way) == some w)
  let s := { s with choices := s.choices + ways.length }
  parts.foldl (fun s p => (p.2.foldl f s).finish p.1) s

/-! ### Lapse -/

/-- The lapse of session `i` (R82, R83): the record becomes LAPSED, its claims are withdrawn in claim-list order with the
status LAPSED, and a SESSION_LAPSED notice is raised on its channel. -/
def State.lapse (s : State) (i : Nat) (reason : LapseReason) : State :=
  match (s.session i).state with
  | .opened o =>
    let t := s.setSession i ⟨(s.session i).tag, .lapsed ⟨o.channel, reason, false⟩⟩
    let t := o.claims.foldl (fun s c => s.withdrawPart c (some .lapsed) true) t
    t.raise o.channel (.sessionLapsed i (s.sessionHandle i) reason s.now o.claims.length)
  | .free => s
  | .lapsed _ => s

end Sys2Proof.Machine
end

