-- ==== Sys2Proof/Machine/Deadlines.lean ====
section
/-! DEFINITION. The tick and the delivery of expiries (spec/05). -/

namespace Sys2Proof.Machine

/-- An armed deadline at a tick that makes now `now`: due if it equals the new now, and due still if it was (R94). -/
def Deadline.atTick (now : Tick) (d : Deadline) : Deadline := { d with due := d.due || decide (d.tick = now) }

/-- A wait's deadline at a tick. -/
def Wait.atTick (now : Tick) (w : Wait) : Wait := { w with deadline := w.deadline.map (·.atTick now) }

/-- A claim's wait deadline at a tick. -/
def ClaimState.atTick (now : Tick) : ClaimState → ClaimState
  | .waiting m w => .waiting m (w.atTick now)
  | .held m => .held m
  | .converting h m w => .converting h m (w.atTick now)

/-- A claim record at a tick. -/
def ClaimRec.atTick (now : Tick) (r : ClaimRec) : ClaimRec :=
  { r with claim := r.claim.map fun b => { b with state := b.state.atTick now } }

/-- A session record at a tick. -/
def SessionRec.atTick (now : Tick) (r : SessionRec) : SessionRec :=
  match r.state with
  | .opened o => { r with state := .opened { o with deadline := o.deadline.atTick now } }
  | .free => r
  | .lapsed _ => r

/-- A tick (R94): now advances, a requested period comes into force, and the deadlines equal to the new now become due. -/
def State.tickOnce (s : State) : State :=
  { s with
    now := s.now + 1
    period := s.requestedPeriod.getD s.period
    requestedPeriod := none
    sessions := s.sessions.map (SessionRec.atTick (s.now + 1))
    claims := s.claims.map (ClaimRec.atTick (s.now + 1)) }

/-- TICK (R94): no tick is taken during start-up (R95). -/
def execTick (s : State) : Host.Outcome State Fault Refusal := .next (if s.ready then s.tickOnce else s)

/-- Whether session `i` has a due keepalive deadline. -/
def State.keepaliveDue (s : State) (i : Nat) : Bool :=
  match (s.session i).state with
  | .opened o => o.deadline.due
  | .free => false
  | .lapsed _ => false

/-- KEEPALIVE_EXPIRY (R81, R101): the session lapses with reason EXPIRED. A deadline that is not due, or that its owner has
disarmed, is not delivered (R94, R100). -/
def execKeepaliveExpiry (session : Fin 512) (s : State) : Host.Outcome State Fault Refusal :=
  .next (if s.keepaliveDue session then s.lapse session .expired else s)

/-- Whether claim `c` has a due wait deadline. -/
def State.waitDue (s : State) (c : Nat) : Bool :=
  match ((s.claimAt c).bind (·.state.wait)).bind (·.deadline) with
  | some d => d.due
  | none => false

/-- The expiry of claim `c`'s wait deadline (R66). -/
def State.expireWait (s : State) (c : Nat) : State :=
  match s.claimAt c with
  | some b => (s.endWait c .timedOut).finish b.way
  | none => s

/-- WAIT_EXPIRY (R66, R101): the wait ends, answered TIMED_OUT. A deadline that is not due, or that its owner has disarmed,
is not delivered (R94, R100). -/
def execWaitExpiry (claim : Fin 32768) (s : State) : Host.Outcome State Fault Refusal :=
  .next (if s.waitDue claim then s.expireWait claim else s)

end Sys2Proof.Machine
end

