-- ==== Sys2Proof/Machine/Device.lean ====
section
/-! DEFINITION. Device reset and the end of start-up (R151). -/

namespace Sys2Proof.Machine

/-- The device reset values with what is not the part's own state kept: the queue of commands, the interrupt messages
already sent, and the count of free choices (log entries 10 and 11). -/
def State.cleared (s : State) (ready : Bool) : State :=
  { State.reset with ready := ready, pending := s.pending, interrupts := s.interrupts, choices := s.choices }

/-- DEVICE_RESET (R151): all DMA is abandoned and start-up begins, READY 0. -/
def execDeviceReset (s : State) : Host.Outcome State Fault Refusal := .next (s.cleared false)

/-- STARTUP_END (R151): the tables are cleared and READY becomes 1. Outside start-up it is no event of the part (log entry
2). -/
def execStartupEnd (s : State) : Host.Outcome State Fault Refusal := .next (if s.ready then s else s.cleared true)

end Sys2Proof.Machine
end

