-- ==== Sys2Proof/Machine/Faults.lean ====
section
/-! DEFINITION. The events that stop a channel: the entry into FAULTED (R136, R154), and the beginning and end of a
teardown (R91, R139, R158). -/

namespace Sys2Proof.Machine

/-- The fetch of a channel that leaves ACTIVE (R127, R136): a DMA read in flight stays in flight, and entries fetched and
not yet taken are discarded, which clears the fetch-in-flight flag. -/
def Fetch.atLeave : Fetch → Fetch
  | .idle => .idle
  | .reading a n => .reading a n
  | .taking _ => .idle

/-- Steps 1 to 3 of R136 at the channel record: FAULTED with the cause, nothing owed, no pending notice. -/
def Channel.faulted (c : Channel) (cause : Cause) : Channel :=
  { c with state := .faulted, cause := cause, owed := 0, notices := [], fetch := c.fetch.atLeave }

/-- The lapse-notice pending flags of the sessions of channel `ch` and the noticed flags of their claims cleared (R136,
R148). -/
def State.clearFlags (s : State) (ch : Nat) : State :=
  let t := (s.claimsOf ch).foldl (fun s c => s.modClaim c fun b => { b with noticed := false }) s
  (s.sessionsOf ch).foldl (fun s i =>
    match (s.session i).state with
    | .lapsed l => s.setSession i ⟨(s.session i).tag, .lapsed { l with noticePending := false }⟩
    | .free => s
    | .opened _ => s) t

/-- Whether claim `c` is WAITING or CONVERTING. -/
def State.isWaiting (s : State) (c : Nat) : Bool := ((s.claimAt c).bind (·.state.wait)).isSome

/-- Channel `ch`'s armed flag cleared. -/
def State.disarm (s : State) (ch : Nat) : State := s.setChan ch { s.chan ch with armed := false }

/-- The entry of an ACTIVE client channel into FAULTED (R136): its record, its flags, the withdrawal of its waits, the
CHANNEL_FAULTED notice on channel 0, and the interrupt if it is armed. -/
def State.faultClient (s : State) (ch : Nat) (cause : Cause) : State :=
  let t := (s.setChan ch ((s.chan ch).faulted cause)).clearFlags ch
  let t := t.withdrawAll [] ((t.claimsOf ch).filter t.isWaiting) State.withdrawWait
  let t := t.raise 0 (.channelFaulted ch cause s.now)
  if (t.chan ch).armed then (t.sendInterrupt ch).disarm ch else t

/-- The entry of an ACTIVE channel 0 into FAULTED (R154): no withdrawal and no notice, the pending teardown replies
discarded, and the interrupt sent whether or not it is armed. -/
def State.faultManagement (s : State) (cause : Cause) : State :=
  let t := s.setChan 0 ((s.chan 0).faulted cause)
  ({ t with teardownReplies := Table.empty }.sendInterrupt 0).disarm 0

/-- The entry of an ACTIVE channel into FAULTED (R136, R154). -/
def State.fault (s : State) (ch : Nat) (cause : Cause) : State :=
  if ch = 0 then s.faultManagement cause else s.faultClient ch cause

/-- The beginning of a teardown of channel `ch` (R139, R91): CLOSING, nothing owed, no pending notice, and its sessions
freed with their claims withdrawn silently, each session's in claim-list order (R80), and X values made INVALID. -/
def State.beginTeardown (s : State) (ch : Nat) : State :=
  let t := s.setChan ch
    { s.chan ch with state := .closing, owed := 0, notices := [], fetch := (s.chan ch).fetch.atLeave }
  let lists := (t.sessionsOf ch).map fun i => (t.session i).claims
  let t := t.withdrawAll lists (t.claimsOf ch) fun s c => s.withdraw c none true
  (t.sessionsOf ch).foldl State.freeSession t

/-- The end of a teardown of channel `ch` (R139, R158): the record takes its device reset values, and the pending teardown
reply, if it has survived, is handed to channel 0. -/
def State.endTeardown (s : State) (ch : Nat) : State :=
  let t := s.setChan ch Channel.reset
  match t.teardownReplies.get ch with
  | some tag => { t with teardownReplies := t.teardownReplies.set ch none }.reply 0 .teardownChannel tag .ok
  | none => t

/-- The teardown of channel `ch` ends if it is CLOSING with no DMA in flight (R139). -/
def State.endTeardownIfDrained (s : State) (ch : Nat) : State :=
  if (s.chan ch).state = .closing ∧ (s.chan ch).dmaBusy = false then s.endTeardown ch else s

end Sys2Proof.Machine
end

