-- ==== Sys2Proof/Machine/Dma.lean ====
section
/-! DEFINITION. The DMA of the rings (spec/07): the fetch arbiter's grants, the completions and errors of fetches and
writes, and the end of a teardown. A completion with no such DMA in flight is no event of the part, and nothing happens
(log entry 2). -/

namespace Sys2Proof.Machine

/-! ### Fetches -/

/-- The channels in the arbiter's order: from the one after the last granted, around to it (R125). -/
def State.arbiterOrder (s : State) : List Nat :=
  (List.range Config.channels).map fun k => (s.lastGranted + 1 + k) % Config.channels

/-- The channel that the arbiter grants next (R125). -/
def State.arbiterChoice (s : State) : Option Nat := s.arbiterOrder.find? fun n => (s.chan n).ready

/-- The number of entries of a fetch (R126). -/
def Channel.fetchCount (c : Channel) : Nat := min 4 (min c.pendingCount c.unreserved)

/-- The fetch that channel `n` issues on a grant (R126). -/
def State.issueFetch (s : State) (n : Nat) : State :=
  { s.setChan n
      { s.chan n with
        fetch := .reading (s.chan n).reqCons (s.chan n).fetchCount
        owed := (s.chan n).owed + (s.chan n).fetchCount } with
    lastGranted := n }

/-- FETCH_ISSUE (R125, R126): with no ready channel the arbiter makes no grant (log entry 2). -/
def execFetchIssue (s : State) : Host.Outcome State Fault Refusal :=
  .next (match s.arbiterChoice with
    | some n => s.issueFetch n
    | none => s)

/-- A fetch completion discarded (R128): the fetch-in-flight flag is cleared, which may end a teardown (R139). -/
def State.discardFetch (s : State) (ch : Nat) : State :=
  (s.setChan ch { s.chan ch with fetch := .idle }).endTeardownIfDrained ch

/-- A fetch completion without error taken on an ACTIVE channel (R127): REQ_CONS advances, and the entries, decoded from the
copy the fetch brought in (R169), stand ready to be taken in ring order. -/
def State.completeFetch (s : State) (ch : Fin 16) (count : Nat) (entries : List RingEntry) : State :=
  s.setChan ch
    { s.chan ch with
      reqCons := ((s.chan ch).reqCons + count) % (s.chan ch).reqSize
      fetch := .taking (entries.map (decodeEntry ch)) }

/-- FETCH_COMPLETION (R127, R128): it is the completion of the channel's fetch if it brings as many entries as that fetch
covers (log entry 12). -/
def execFetchCompletion (ch : Fin 16) (entries : List RingEntry) (s : State) : Host.Outcome State Fault Refusal :=
  .next (match (s.chan ch).fetch with
    | .reading _ count =>
      if entries.length ≠ count then s
      else if (s.chan ch).state = .active then s.completeFetch ch count entries
      else s.discardFetch ch
    | .idle => s
    | .taking _ => s)

/-- FETCH_ERROR (R128): an ACTIVE channel is FAULTED with cause FETCH_ERROR, its fetch-in-flight flag cleared; on another the
completion is discarded. -/
def execFetchError (ch : Fin 16) (s : State) : Host.Outcome State Fault Refusal :=
  .next (match (s.chan ch).fetch with
    | .reading _ _ =>
      if (s.chan ch).state = .active then
        (s.setChan ch { s.chan ch with fetch := .idle }).fault ch .fetchError
      else s.discardFetch ch
    | .idle => s
    | .taking _ => s)

/-! ### Writes -/

/-- The oldest write in flight of a channel leaves it. -/
def State.popWrite (s : State) (ch : Nat) : State := s.setChan ch { s.chan ch with writes := (s.chan ch).writes.drop 1 }

/-- A write completion without error on an ACTIVE channel (R132): RPL_PROD advances, and the interrupt is sent if the
channel is armed. -/
def State.completeWrite (s : State) (ch : Nat) : State :=
  let t := (s.popWrite ch).setChan ch
    { (s.popWrite ch).chan ch with rplProd := ((s.chan ch).rplProd + 1) % (s.chan ch).rplSize }
  if (t.chan ch).armed then (t.sendInterrupt ch).disarm ch else t

/-- WRITE_COMPLETION (R132): on a channel that is not ACTIVE it lowers writes in flight only, which may end a teardown. -/
def execWriteCompletion (ch : Fin 16) (s : State) : Host.Outcome State Fault Refusal :=
  .next (if (s.chan ch).writes = [] then s
    else if (s.chan ch).state = .active then s.completeWrite ch
    else (s.popWrite ch).endTeardownIfDrained ch)

/-- WRITE_ERROR (R133): an ACTIVE channel is FAULTED with cause WRITE_ERROR, RPL_PROD as it was; on another it is a
completion like any (R132). -/
def execWriteError (ch : Fin 16) (s : State) : Host.Outcome State Fault Refusal :=
  .next (if (s.chan ch).writes = [] then s
    else if (s.chan ch).state = .active then (s.popWrite ch).fault ch .writeError
    else (s.popWrite ch).endTeardownIfDrained ch)

/-! ### The end of a teardown -/

/-- TEARDOWN_END (R139): a CLOSING channel with no DMA in flight becomes OFF. A completion that leaves none in flight ends
the teardown within its own event, as R139 says (log entry 7). -/
def execTeardownEnd (ch : Fin 16) (s : State) : Host.Outcome State Fault Refusal := .next (s.endTeardownIfDrained ch)

end Sys2Proof.Machine
end

