-- ==== Sys2Proof/Machine/Lease.lean ====
section
/-! DEFINITION. ACQUIRE, CONVERT, RELEASE, CANCEL and CHECK_FENCE (spec/03, spec/06), and the request of an unknown kind
(R168). Each handler makes its checks in the order of R45 or R111; the first that fails decides the status. -/

namespace Sys2Proof.Machine

/-! ### ACQUIRE -/

/-- Whether an ACQUIRE for mode `m` is grantable at arrival at way `w` (R33). -/
def State.acquireGrantable (s : State) (w : Nat) (m : Mode) : Bool :=
  decide ((s.entry w).converts = []) && decide ((s.entry w).waits = []) && s.admits (s.entry w) m none

/-- An ACQUIRE taken at its entry (R50, R51): granted at arrival, refused CONFLICT, or made to wait. -/
def State.acquireAtEntry (s : State) (idx ch : Nat) (tag : ReqTag) (i w : Nat) (m : Mode) (limit : BitVec 16) : State :=
  if s.acquireGrantable w m then ((s.allocate idx i w (.held m)).grant .acquire tag idx w m).finish w
  else if limit = 0 then (s.reply ch .acquire tag .conflict).finish w
  else (s.allocate idx i w (.waiting m ⟨tag, waitDeadline s.now limit⟩)).finish w

/-- Whether session `i`'s claim list holds a claim whose entry's key is `k` (R49). -/
def State.alreadyClaimed (s : State) (i : Nat) (k : Key) : Bool :=
  (s.session i).claims.any fun c =>
    match s.claimAt c with
    | some b => (s.entry b.way).key == k
    | none => false

/-- The checks of ACQUIRE from domain access on (R48, R49), for a session `i` that passed the handle check. -/
def State.acquireChecked (s : State) (idx ch : Nat) (tag : ReqTag) (i : Nat) (k : Key) (m : Mode) (limit : BitVec 16) :
    State :=
  if (s.chan ch).access.get k.domain.toNat ≠ .full then s.reply ch .acquire tag .notPermitted
  else if s.alreadyClaimed i k then s.reply ch .acquire tag .alreadyClaimed
  else if (s.chan ch).claimLimit ≤ s.claimCount ch then s.reply ch .acquire tag .quota
  else if s.freeClaims = 0 then s.reply ch .acquire tag .noRecord
  else if m = .exclusive ∧ s.nextSerial = none then s.reply ch .acquire tag .serialExhausted
  else
    match s.place k with
    | some (w, t) => t.acquireAtEntry idx ch tag i w m limit
    | none => s.reply ch .acquire tag .noSlot

/-- ACQUIRE taken on channel `ch` (R45 to R49), with `idx` the free record that the Claim Pool would give it. -/
def State.acquire (s : State) (idx ch : Nat) (tag : ReqTag) (session : SessionHandle) (domain mode : BitVec 8)
    (limit : BitVec 16) (name : Name) : State :=
  if ch = 0 then s.reply ch .acquire tag .notPermitted
  else
    match Mode.ofCode mode, keyOf domain name with
    | some m, some k =>
      match s.checkSession (some ch) session with
      | .bad => s.reply ch .acquire tag .badHandle
      | .lapsed _ => s.reply ch .acquire tag .lapsed
      | .opened i => (s.renew i).acquireChecked idx ch tag i k m limit
    | some _, none => s.reply ch .acquire tag .badRequest
    | none, _ => s.reply ch .acquire tag .badRequest

/-- ACQUIRE (R49). -/
def execAcquire (ch : Fin 16) (tag : ReqTag) (session : SessionHandle) (domain mode : BitVec 8) (wait : BitVec 16)
    (name : Name) (s : State) : Host.Outcome State Fault Refusal :=
  takeRequest ch (.acquire ch tag session domain mode wait name)
    (fun s => s.acquire s.pickClaim ch tag session domain mode wait name) s

/-! ### CONVERT -/

/-- A refusal of a CONVERT that carries the claim handle and its held mode (R55, R57). -/
def State.refuseConvert (s : State) (ch : Nat) (tag : ReqTag) (c : Nat) (status : Status) : State :=
  s.hand ch ⟨.convert, tag, status, .claimMode (s.claimHandle c) (s.heldMode c)⟩

/-- Whether a conversion of claim `c` to `m` is grantable at arrival (R33). -/
def State.upgradeGrantable (s : State) (c w : Nat) (m : Mode) : Bool :=
  decide ((s.entry w).converts = []) && s.admits (s.entry w) m (some c)

/-- The S to U conversions pending at way `w` failed in convert-queue order, as a U to X conversion does (R60). -/
def State.failConversions (s : State) (w : Nat) : State :=
  ((s.entry w).converts.filter fun c => decide (s.wantedMode c = some .update)).foldl
    (fun s c => s.endWait c .conversionDeadlock) s

/-- A legal upgrade of claim `c` from mode `held` to `m`, past its checks (R57, R60). -/
def State.upgrade (s : State) (ch : Nat) (tag : ReqTag) (c w : Nat) (held m : Mode) (limit : BitVec 16) : State :=
  let s := if m = .exclusive then s.failConversions w else s
  if s.upgradeGrantable c w m then
    ((s.clearNoticed c).grant .convert tag c w m).finish w
  else if limit = 0 then (s.refuseConvert ch tag c .conflict).finish w
  else
    ((s.modClaim c fun b => { b with state := .converting held m ⟨tag, waitDeadline s.now limit⟩ }).modEntry w fun e =>
      { e with converts := e.converts ++ [c] }).finish w

/-- A legal downgrade of claim `c` from mode `held` to `m` (R56, R62). -/
def State.downgrade (s : State) (ch : Nat) (tag : ReqTag) (c w : Nat) (held m : Mode) (present invalidate : Bool)
    (value : ValueWord) : State :=
  let s := (s.modClaim c fun b => { b with state := .held m }).clearNoticed c
  let s := if held = .exclusive then
      s.modEntry w fun e => { e with value := e.value.written present invalidate value }
    else s
  (s.hand ch ⟨.convert, tag, .ok, .claimMode (s.claimHandle c) (some m)⟩).finish w

/-- Whether the convert queue of way `w` holds a claim that wants X (R59). -/
def State.exclusivePending (s : State) (w : Nat) : Bool :=
  (s.entry w).converts.any fun c => decide (s.wantedMode c = some .exclusive)

/-- The checks of CONVERT's kind (R55) for claim `c`, and what it then does. -/
def State.convertHeld (s : State) (ch : Nat) (tag : ReqTag) (c w : Nat) (held m : Mode) (present invalidate : Bool)
    (limit : BitVec 16) (value : ValueWord) : State :=
  match conversionKind held m with
  | .bad => s.refuseConvert ch tag c .badConversion
  | .downgrade =>
    if (present || invalidate) && decide (held ≠ .exclusive) then s.refuseConvert ch tag c .badValue
    else s.downgrade ch tag c w held m present invalidate value
  | .upgrade =>
    if present || invalidate then s.refuseConvert ch tag c .badValue
    else if m = .exclusive ∧ s.nextSerial = none then s.refuseConvert ch tag c .serialExhausted
    else if m = .update ∧ s.exclusivePending w then s.refuseConvert ch tag c .conversionDeadlock
    else s.upgrade ch tag c w held m limit

/-- Whether a CONVERT of a claim to mode `m` asks for more than it holds (R48). -/
def ClaimState.asksHigher (st : ClaimState) (m : Mode) : Bool :=
  match st.heldMode with
  | some h => decide (h.rank < m.rank)
  | none => false

/-- CONVERT past the handle check (R48, R55) for claim `c`. -/
def State.convertChecked (s : State) (ch : Nat) (tag : ReqTag) (c : Nat) (b : Claim) (m : Mode)
    (present invalidate : Bool) (limit : BitVec 16) (value : ValueWord) : State :=
  if b.state.asksHigher m ∧ (s.chan ch).access.get (s.entry b.way).key.domain.toNat ≠ .full then
    s.reply ch .convert tag .notPermitted
  else
    match b.state with
    | .held held => s.convertHeld ch tag c b.way held m present invalidate limit value
    | .waiting _ _ => s.refuseConvert ch tag c .inProgress
    | .converting _ _ _ => s.refuseConvert ch tag c .inProgress

/-- CONVERT taken on channel `ch` (R45 to R48, R55). -/
def State.convert (s : State) (ch : Nat) (tag : ReqTag) (claim : ClaimHandle) (mode : BitVec 8)
    (present invalidate : Bool) (limit : BitVec 16) (value : ValueWord) : State :=
  if ch = 0 then s.reply ch .convert tag .notPermitted
  else
    match Mode.ofCode mode with
    | some m =>
      if present && invalidate then s.reply ch .convert tag .badRequest
      else
        match s.checkClaim ch claim with
        | some c =>
          match s.claimAt c with
          | some b => (s.renew b.session).convertChecked ch tag c b m present invalidate limit value
          | none => s.reply ch .convert tag .badHandle
        | none => s.reply ch .convert tag .badHandle
    | none => s.reply ch .convert tag .badRequest

/-- CONVERT (R55). -/
def execConvert (ch : Fin 16) (tag : ReqTag) (claim : ClaimHandle) (mode : BitVec 8) (present invalidate : Bool)
    (wait : BitVec 16) (value : ValueWord) (s : State) : Host.Outcome State Fault Refusal :=
  takeRequest ch (.convert ch tag claim mode present invalidate wait value)
    (fun s => s.convert ch tag claim mode present invalidate wait value) s

/-! ### RELEASE -/

/-- A RELEASE of claim `c` past the handle check (R62, R63, R64). Its own reply is handed before the grant pass (log entry
6). -/
def State.releaseChecked (s : State) (ch : Nat) (tag : ReqTag) (c : Nat) (b : Claim) (present invalidate : Bool)
    (value : ValueWord) : State :=
  match b.state with
  | .waiting _ _ => s.reply ch .release tag .wrongState
  | .held m =>
    if (present || invalidate) && decide (m ≠ .exclusive) then s.reply ch .release tag .badValue
    else
      let t := s.freeClaim c
      let t := if m = .exclusive then
          t.modEntry b.way fun e => { e with value := e.value.written present invalidate value }
        else t
      (t.reply ch .release tag .ok).finish b.way
  | .converting _ _ _ =>
    if present || invalidate then s.reply ch .release tag .badValue
    else
      ((((s.answer c .cancelled true).endConversion c).freeClaim c).reply ch .release tag .ok).finish b.way

/-- RELEASE taken on channel `ch` (R45 to R48, R63). -/
def State.release (s : State) (ch : Nat) (tag : ReqTag) (claim : ClaimHandle) (present invalidate : Bool)
    (value : ValueWord) : State :=
  if ch = 0 then s.reply ch .release tag .notPermitted
  else if present && invalidate then s.reply ch .release tag .badRequest
  else
    match s.checkClaim ch claim with
    | some c =>
      match s.claimAt c with
      | some b => (s.renew b.session).releaseChecked ch tag c b present invalidate value
      | none => s.reply ch .release tag .badHandle
    | none => s.reply ch .release tag .badHandle

/-- RELEASE (R63). -/
def execRelease (ch : Fin 16) (tag : ReqTag) (claim : ClaimHandle) (present invalidate : Bool) (value : ValueWord)
    (s : State) : Host.Outcome State Fault Refusal :=
  takeRequest ch (.release ch tag claim present invalidate value)
    (fun s => s.release ch tag claim present invalidate value) s

/-! ### CANCEL -/

/-- Session `i`'s claim among the claims of way `w` (R65). -/
def State.claimThere (s : State) (i w : Nat) : Option Nat :=
  ((s.entry w).holders ++ (s.entry w).waits).find? fun c =>
    match s.claimAt c with
    | some b => b.session == i
    | none => false

/-- Whether claim `c` is HELD. -/
def State.isHeld (s : State) (c : Nat) : Bool := ((s.claimAt c).bind (·.state.wait)).isNone

/-- A CANCEL past the handle check (R65) for session `i` and key `k`. -/
def State.cancelChecked (s : State) (ch : Nat) (tag : ReqTag) (i : Nat) (k : Key) : State :=
  match s.lookup k with
  | some w =>
    match s.claimThere i w with
    | some c =>
      if s.isHeld c then
        (s.hand ch ⟨.cancel, tag, .tooLate, .claimMode (s.claimHandle c) (s.heldMode c)⟩).finish w
      else ((s.endWait c .cancelled).reply ch .cancel tag .ok).finish w
    | none => (s.reply ch .cancel tag .notClaimed).finish w
  | none => s.reply ch .cancel tag .notClaimed

/-- CANCEL taken on channel `ch` (R45 to R48, R65). -/
def State.cancel (s : State) (ch : Nat) (tag : ReqTag) (session : SessionHandle) (domain : BitVec 8) (name : Name) :
    State :=
  if ch = 0 then s.reply ch .cancel tag .notPermitted
  else
    match keyOf domain name with
    | some k =>
      match s.checkSession (some ch) session with
      | .bad => s.reply ch .cancel tag .badHandle
      | .lapsed _ => s.reply ch .cancel tag .lapsed
      | .opened i => (s.renew i).cancelChecked ch tag i k
    | none => s.reply ch .cancel tag .badRequest

/-- CANCEL (R65). -/
def execCancel (ch : Fin 16) (tag : ReqTag) (session : SessionHandle) (domain : BitVec 8) (name : Name) (s : State) :
    Host.Outcome State Fault Refusal :=
  takeRequest ch (.cancel ch tag session domain name) (fun s => s.cancel ch tag session domain name) s

/-! ### CHECK_FENCE -/

/-- The claim held in X at an entry, if any (R112). -/
def State.exclusiveHolder (s : State) (e : Entry) : Option Nat :=
  e.holders.find? fun c => decide (s.heldMode c = some .exclusive)

/-- The verdict of CHECK_FENCE for key `k` and a serial (R112): verdict, reason and the serial of the reply. -/
def State.fenceVerdict (s : State) (k : Key) (serial : Serial) : Verdict × Reason × Serial :=
  match s.lookup k with
  | none => (.stale, .absent, 0)
  | some w =>
    match s.way w with
    | .active e =>
      match s.exclusiveHolder e with
      | some c =>
        if (s.claimAt c).bind (·.serial) = some serial then (.current, .none, e.serial)
        else (.stale, .superseded, e.serial)
      | none => (.stale, .noHolder, e.serial)
    | .dormant e => (.stale, .noHolder, e.serial)
    | .free => (.stale, .absent, 0)

/-- CHECK_FENCE past the handle check (R111, R112). -/
def State.checkFenceChecked (s : State) (ch : Nat) (tag : ReqTag) (k : Key) (serial : Serial) : State :=
  if (s.chan ch).access.get k.domain.toNat = .none then s.reply ch .checkFence tag .notPermitted
  else
    s.hand ch ⟨.checkFence, tag, .ok,
      .fence (s.fenceVerdict k serial).1 (s.fenceVerdict k serial).2.1 (s.fenceVerdict k serial).2.2⟩

/-- CHECK_FENCE taken on channel `ch` (R111): a handle of 0xFFFF names no session. -/
def State.checkFence (s : State) (ch : Nat) (tag : ReqTag) (session : SessionHandle) (domain : BitVec 8) (name : Name)
    (serial : Serial) : State :=
  if ch = 0 then s.reply ch .checkFence tag .notPermitted
  else
    match keyOf domain name with
    | some k =>
      if session = noSession then s.checkFenceChecked ch tag k serial
      else
        match s.checkSession (some ch) session with
        | .bad => s.reply ch .checkFence tag .badHandle
        | .lapsed _ => s.reply ch .checkFence tag .lapsed
        | .opened i => (s.renew i).checkFenceChecked ch tag k serial
    | none => s.reply ch .checkFence tag .badRequest

/-- CHECK_FENCE (R111). -/
def execCheckFence (ch : Fin 16) (tag : ReqTag) (session : SessionHandle) (domain : BitVec 8) (name : Name)
    (serial : Serial) (s : State) : Host.Outcome State Fault Refusal :=
  takeRequest ch (.checkFence ch tag session domain name serial)
    (fun s => s.checkFence ch tag session domain name serial) s

/-! ### An unknown kind -/

/-- UNKNOWN_KIND_REQUEST (R45, R156, R168): refused BAD_REQUEST on every channel, with kind code 0x0000 in its reply. -/
def execUnknownKindRequest (ch : Fin 16) (tag : ReqTag) (kind : BitVec 16) (s : State) :
    Host.Outcome State Fault Refusal :=
  takeRequest ch (.unknownKindRequest ch tag kind) (fun s => s.reply ch .unknown tag .badRequest) s

end Sys2Proof.Machine
end

