-- ==== Sys2Proof/Machine/Sessions.lean ====
section
/-! DEFINITION. The session requests OPEN_SESSION, CLOSE_SESSION and KEEPALIVE (spec/04). -/

namespace Sys2Proof.Machine

/-! ### OPEN_SESSION -/

/-- Session record `i` opened on channel `ch` (R76): its tag is kept, its deadline armed. -/
def State.openAt (s : State) (i ch : Nat) (period : BitVec 16) (notices : Bool) : State :=
  s.setSession i ⟨(s.session i).tag, .opened ⟨ch, period, keepaliveDeadline s.now period, notices, []⟩⟩

/-- OPEN_SESSION taken on channel `ch` (R76). -/
def State.openSession (s : State) (ch : Nat) (tag : ReqTag) (period : BitVec 16) (notices : Bool) : State :=
  if ch = 0 then s.reply ch .openSession tag .notPermitted
  else if period = 0 then s.reply ch .openSession tag .badRequest
  else if (s.chan ch).sessionLimit ≤ s.sessionCount ch then s.reply ch .openSession tag .quota
  else
    match s.searchFreeSession Config.sessionRecords 0 with
    | some i =>
      (s.openAt i ch period notices).hand ch
        ⟨.openSession, tag, .ok, .sessionTick (s.sessionHandle i) (keepaliveDeadline s.now period).tick⟩
    | none => s.reply ch .openSession tag .noRecord

/-- OPEN_SESSION (R76). -/
def execOpenSession (ch : Fin 16) (tag : ReqTag) (period : BitVec 16) (notices : Bool) (s : State) :
    Host.Outcome State Fault Refusal :=
  takeRequest ch (.openSession ch tag period notices) (fun s => s.openSession ch tag period notices) s

/-! ### CLOSE_SESSION -/

/-- The close of session `i` (R86, R87): an OPEN session's claims are withdrawn in claim-list order with the status
WITHDRAWN; a LAPSED session's pending notice is dropped; then the record is freed. -/
def State.close (s : State) (i : Nat) : State :=
  match (s.session i).state with
  | .opened o => (o.claims.foldl (fun s c => s.withdrawPart c (some .withdrawn) false) s).freeSession i
  | .lapsed l => (s.dropNotices l.channel (Notice.lapseOf i)).freeSession i
  | .free => s

/-- CLOSE_SESSION taken on channel `ch` (R86, R87): a LAPSED session of the channel passes the check (R75). -/
def State.closeSession (s : State) (ch : Nat) (tag : ReqTag) (session : SessionHandle) : State :=
  if ch = 0 then s.reply ch .closeSession tag .notPermitted
  else
    match s.checkSession (some ch) session with
    | .bad => s.reply ch .closeSession tag .badHandle
    | .lapsed i => (s.close i).reply ch .closeSession tag .ok
    | .opened i => (s.close i).reply ch .closeSession tag .ok

/-- CLOSE_SESSION (R86). -/
def execCloseSession (ch : Fin 16) (tag : ReqTag) (session : SessionHandle) (s : State) :
    Host.Outcome State Fault Refusal :=
  takeRequest ch (.closeSession ch tag session) (fun s => s.closeSession ch tag session) s

/-! ### KEEPALIVE -/

/-- The tick of session `i`'s keepalive deadline; 0 without one. -/
def State.deadlineTick (s : State) (i : Nat) : Tick :=
  match (s.session i).state with
  | .opened o => o.deadline.tick
  | .free => 0
  | .lapsed _ => 0

/-- KEEPALIVE taken on channel `ch` (R79). -/
def State.keepalive (s : State) (ch : Nat) (tag : ReqTag) (session : SessionHandle) : State :=
  if ch = 0 then s.reply ch .keepalive tag .notPermitted
  else
    match s.checkSession (some ch) session with
    | .bad => s.reply ch .keepalive tag .badHandle
    | .lapsed _ => s.reply ch .keepalive tag .lapsed
    | .opened i =>
      (s.renew i).hand ch ⟨.keepalive, tag, .ok, .sessionTick (s.sessionHandle i) ((s.renew i).deadlineTick i)⟩

/-- KEEPALIVE (R79). -/
def execKeepalive (ch : Fin 16) (tag : ReqTag) (session : SessionHandle) (s : State) :
    Host.Outcome State Fault Refusal :=
  takeRequest ch (.keepalive ch tag session) (fun s => s.keepalive ch tag session) s

end Sys2Proof.Machine
end

