-- ==== Sys2Proof/Machine/Management.lean ====
section
/-! DEFINITION. The management requests (spec/09). Each makes its checks in the order of R156: kind, field ranges,
handle, target state, and the checks of the kind. -/

namespace Sys2Proof.Machine

/-! ### SETUP_CHANNEL -/

/-- The configuration that a SETUP_CHANNEL carries, if its field ranges pass (R157). -/
def setupRings (vector : BitVec 8) (sessionLimit claimLimit : BitVec 16) (reqBase rplBase : HostAddr)
    (reqSize rplSize : BitVec 16) : Option Rings :=
  let r : Rings := ⟨reqBase, reqSize.toNat, rplBase, rplSize.toNat, vector.toNat⟩
  if r.valid ∧ sessionLimit ≤ 512 ∧ claimLimit ≤ 32768 then some r else none

/-- A client channel record set up (R121, R157): configured, all access NONE, ACTIVE. -/
def Channel.setUp (c : Channel) (r : Rings) (sessionLimit claimLimit : Nat) : Channel :=
  { c with rings := some r, sessionLimit := sessionLimit, claimLimit := claimLimit, access := Table.empty }.ringStart

/-- SETUP_CHANNEL taken on channel `ch` (R157). -/
def State.setupChannel (s : State) (ch : Nat) (tag : ReqTag) (target vector : BitVec 8)
    (sessionLimit claimLimit : BitVec 16) (reqBase rplBase : HostAddr) (reqSize rplSize : BitVec 16) : State :=
  if ch ≠ 0 then s.reply ch .setupChannel tag .notPermitted
  else
    match targetOf target, setupRings vector sessionLimit claimLimit reqBase rplBase reqSize rplSize with
    | some t, some r =>
      match (s.chan t).state with
      | .closing => s.reply ch .setupChannel tag .busy
      | .active => s.reply ch .setupChannel tag .wrongState
      | .faulted => s.reply ch .setupChannel tag .wrongState
      | .off =>
        (s.setChan t ((s.chan t).setUp r sessionLimit.toNat claimLimit.toNat)).reply ch .setupChannel tag .ok
    | some _, none => s.reply ch .setupChannel tag .badRequest
    | none, _ => s.reply ch .setupChannel tag .badRequest

/-- SETUP_CHANNEL (R157). -/
def execSetupChannel (ch : Fin 16) (tag : ReqTag) (target vector : BitVec 8) (sessionLimit claimLimit : BitVec 16)
    (reqBase rplBase : HostAddr) (reqSize rplSize : BitVec 16) (s : State) : Host.Outcome State Fault Refusal :=
  takeRequest ch (.setupChannel ch tag target vector sessionLimit claimLimit reqBase rplBase reqSize rplSize)
    (fun s => s.setupChannel ch tag target vector sessionLimit claimLimit reqBase rplBase reqSize rplSize) s

/-! ### TEARDOWN_CHANNEL -/

/-- A teardown of channel `t` as a TEARDOWN_CHANNEL with tag `tag` starts it (R139, R158): a pending CHANNEL_FAULTED
notice for it is dropped, the reply is kept pending, and the teardown ends at once if no DMA is in flight. -/
def State.teardown (s : State) (t : Nat) (tag : ReqTag) : State :=
  let s := (s.dropNotices 0 (Notice.faultOf t)).beginTeardown t
  { s with teardownReplies := s.teardownReplies.set t (some tag) }.endTeardownIfDrained t

/-- TEARDOWN_CHANNEL taken on channel `ch` (R158). -/
def State.teardownChannel (s : State) (ch : Nat) (tag : ReqTag) (target : BitVec 8) : State :=
  if ch ≠ 0 then s.reply ch .teardownChannel tag .notPermitted
  else
    match targetOf target with
    | some t =>
      match (s.chan t).state with
      | .closing => s.reply ch .teardownChannel tag .busy
      | .off => s.reply ch .teardownChannel tag .wrongState
      | .active => s.teardown t tag
      | .faulted => s.teardown t tag
    | none => s.reply ch .teardownChannel tag .badRequest

/-- TEARDOWN_CHANNEL (R158). -/
def execTeardownChannel (ch : Fin 16) (tag : ReqTag) (target : BitVec 8) (s : State) :
    Host.Outcome State Fault Refusal :=
  takeRequest ch (.teardownChannel ch tag target) (fun s => s.teardownChannel ch tag target) s

/-! ### RESTART_CHANNEL -/

/-- The re-raising of contention for claim `c` at a restart (R149). -/
def State.retell (s : State) (c : Nat) : State :=
  match s.claimAt c with
  | some b =>
    match (s.entry b.way).blockingHead with
    | some (head, queue) => s.tell b.way head queue c
    | none => s
  | none => s

/-- The restart of a FAULTED client channel `t` with no DMA in flight (R138, R147, R149). -/
def State.restart (s : State) (t : Nat) : State :=
  let s := (s.setChan t (s.chan t).ringStart).dropNotices 0 (Notice.faultOf t)
  (s.claimsOf t).foldl State.retell s

/-- RESTART_CHANNEL taken on channel `ch` (R160). -/
def State.restartChannel (s : State) (ch : Nat) (tag : ReqTag) (target : BitVec 8) : State :=
  if ch ≠ 0 then s.reply ch .restartChannel tag .notPermitted
  else
    match targetOf target with
    | some t =>
      match (s.chan t).state with
      | .closing => s.reply ch .restartChannel tag .busy
      | .off => s.reply ch .restartChannel tag .wrongState
      | .active => s.reply ch .restartChannel tag .wrongState
      | .faulted =>
        if (s.chan t).dmaBusy then s.reply ch .restartChannel tag .busy
        else (s.restart t).reply ch .restartChannel tag .ok
    | none => s.reply ch .restartChannel tag .badRequest

/-- RESTART_CHANNEL (R160). -/
def execRestartChannel (ch : Fin 16) (tag : ReqTag) (target : BitVec 8) (s : State) :
    Host.Outcome State Fault Refusal :=
  takeRequest ch (.restartChannel ch tag target) (fun s => s.restartChannel ch tag target) s

/-! ### SET_ACCESS and SET_LIMITS -/

/-- The entry of channel `t`'s access table for a domain made `level`, and the old level replied (R161). -/
def State.setLevel (s : State) (ch t : Nat) (tag : ReqTag) (domain : Nat) (level : Level) : State :=
  (s.setChan t { s.chan t with access := (s.chan t).access.set domain level }).hand ch
    ⟨.setAccess, tag, .ok, .level ((s.chan t).access.get domain)⟩

/-- SET_ACCESS taken on channel `ch` (R161). -/
def State.setAccess (s : State) (ch : Nat) (tag : ReqTag) (target domain level : BitVec 8) : State :=
  if ch ≠ 0 then s.reply ch .setAccess tag .notPermitted
  else
    match targetOf target, Level.ofCode level with
    | some t, some l =>
      if 15 < domain then s.reply ch .setAccess tag .badRequest
      else
        match (s.chan t).state with
        | .closing => s.reply ch .setAccess tag .busy
        | .off => s.reply ch .setAccess tag .wrongState
        | .active => s.setLevel ch t tag domain.toNat l
        | .faulted => s.setLevel ch t tag domain.toNat l
    | some _, none => s.reply ch .setAccess tag .badRequest
    | none, _ => s.reply ch .setAccess tag .badRequest

/-- SET_ACCESS (R161). -/
def execSetAccess (ch : Fin 16) (tag : ReqTag) (target domain level : BitVec 8) (s : State) :
    Host.Outcome State Fault Refusal :=
  takeRequest ch (.setAccess ch tag target domain level) (fun s => s.setAccess ch tag target domain level) s

/-- The limits of channel `t` set unless one is below its use (R162). -/
def State.limit (s : State) (ch t : Nat) (tag : ReqTag) (sessionLimit claimLimit : Nat) : State :=
  if sessionLimit < s.sessionCount t ∨ claimLimit < s.claimCount t then s.reply ch .setLimits tag .quota
  else
    (s.setChan t { s.chan t with sessionLimit := sessionLimit, claimLimit := claimLimit }).reply ch .setLimits tag .ok

/-- SET_LIMITS taken on channel `ch` (R162). -/
def State.setLimits (s : State) (ch : Nat) (tag : ReqTag) (target : BitVec 8) (sessionLimit claimLimit : BitVec 16) :
    State :=
  if ch ≠ 0 then s.reply ch .setLimits tag .notPermitted
  else
    match targetOf target with
    | some t =>
      if 512 < sessionLimit ∨ 32768 < claimLimit then s.reply ch .setLimits tag .badRequest
      else
        match (s.chan t).state with
        | .closing => s.reply ch .setLimits tag .busy
        | .off => s.reply ch .setLimits tag .wrongState
        | .active => s.limit ch t tag sessionLimit.toNat claimLimit.toNat
        | .faulted => s.limit ch t tag sessionLimit.toNat claimLimit.toNat
    | none => s.reply ch .setLimits tag .badRequest

/-- SET_LIMITS (R162). -/
def execSetLimits (ch : Fin 16) (tag : ReqTag) (target : BitVec 8) (sessionLimit claimLimit : BitVec 16) (s : State) :
    Host.Outcome State Fault Refusal :=
  takeRequest ch (.setLimits ch tag target sessionLimit claimLimit)
    (fun s => s.setLimits ch tag target sessionLimit claimLimit) s

/-! ### SET_TICK, EVICT_SESSION and DISCARD_RESOURCE -/

/-- SET_TICK taken on channel `ch` (R96, R163). -/
def State.setTick (s : State) (ch : Nat) (tag : ReqTag) (period : BitVec 32) : State :=
  if ch ≠ 0 then s.reply ch .setTick tag .notPermitted
  else if period < 10 ∨ 1000000 < period then s.reply ch .setTick tag .badRequest
  else { s with requestedPeriod := some period }.reply ch .setTick tag .ok

/-- SET_TICK (R96). -/
def execSetTick (ch : Fin 16) (tag : ReqTag) (period : BitVec 32) (s : State) : Host.Outcome State Fault Refusal :=
  takeRequest ch (.setTick ch tag period) (fun s => s.setTick ch tag period) s

/-- EVICT_SESSION taken on channel `ch` (R84, R163). -/
def State.evictSession (s : State) (ch : Nat) (tag : ReqTag) (session : SessionHandle) : State :=
  if ch ≠ 0 then s.reply ch .evictSession tag .notPermitted
  else
    match s.checkSession none session with
    | .bad => s.reply ch .evictSession tag .badHandle
    | .lapsed _ => s.reply ch .evictSession tag .wrongState
    | .opened i => (s.lapse i .evicted).reply ch .evictSession tag .ok

/-- EVICT_SESSION (R84). -/
def execEvictSession (ch : Fin 16) (tag : ReqTag) (session : SessionHandle) (s : State) :
    Host.Outcome State Fault Refusal :=
  takeRequest ch (.evictSession ch tag session) (fun s => s.evictSession ch tag session) s

/-- DISCARD_RESOURCE taken on channel `ch` (R17, R163). -/
def State.discardResource (s : State) (ch : Nat) (tag : ReqTag) (domain : BitVec 8) (name : Name) : State :=
  if ch ≠ 0 then s.reply ch .discardResource tag .notPermitted
  else
    match keyOf domain name with
    | some k =>
      match s.lookup k with
      | some w =>
        match s.way w with
        | .dormant _ => (s.leaveDormant w .free).reply ch .discardResource tag .ok
        | .active _ => s.reply ch .discardResource tag .busy
        | .free => s.reply ch .discardResource tag .notFound
      | none => s.reply ch .discardResource tag .notFound
    | none => s.reply ch .discardResource tag .badRequest

/-- DISCARD_RESOURCE (R17). -/
def execDiscardResource (ch : Fin 16) (tag : ReqTag) (domain : BitVec 8) (name : Name) (s : State) :
    Host.Outcome State Fault Refusal :=
  takeRequest ch (.discardResource ch tag domain name) (fun s => s.discardResource ch tag domain name) s

/-! ### The inspections -/

/-- The session handle of the claim held in X at an entry, or 0xFFFF (R164). -/
def State.exclusiveSession (s : State) (e : Entry) : SessionHandle :=
  match (s.exclusiveHolder e).bind s.claimAt with
  | some b => s.sessionHandle b.session
  | none => noSession

/-- What INSPECT_RESOURCE reports of a key (R5, R164). -/
def State.resourceReport (s : State) (k : Key) : ReplyBody :=
  match s.lookup k with
  | some w =>
    .resource (s.way w).wayState (s.entry w).holders.length (s.exclusiveSession (s.entry w))
      (s.entry w).converts.length (s.entry w).waits.length (s.entry w).serial (s.entry w).value
  | none => .resource .free 0 noSession 0 0 0 .absent

/-- INSPECT_RESOURCE taken on channel `ch` (R164). -/
def State.inspectResource (s : State) (ch : Nat) (tag : ReqTag) (domain : BitVec 8) (name : Name) : State :=
  if ch ≠ 0 then s.reply ch .inspectResource tag .notPermitted
  else
    match keyOf domain name with
    | some k => s.hand ch ⟨.inspectResource, tag, .ok, s.resourceReport k⟩
    | none => s.reply ch .inspectResource tag .badRequest

/-- INSPECT_RESOURCE (R164). -/
def execInspectResource (ch : Fin 16) (tag : ReqTag) (domain : BitVec 8) (name : Name) (s : State) :
    Host.Outcome State Fault Refusal :=
  takeRequest ch (.inspectResource ch tag domain name) (fun s => s.inspectResource ch tag domain name) s

/-- What INSPECT_SESSION reports of a session record (R73, R164). -/
def State.sessionReport (s : State) (i : Nat) : ReplyBody :=
  match (s.session i).state with
  | .opened o => .openSession o.channel o.claims.length (o.deadline.tick - s.now)
  | .lapsed l => .lapsedSession l.channel l.reason
  | .free => .header

/-- INSPECT_SESSION taken on channel `ch` (R164): a LAPSED session is reported. -/
def State.inspectSession (s : State) (ch : Nat) (tag : ReqTag) (session : SessionHandle) : State :=
  if ch ≠ 0 then s.reply ch .inspectSession tag .notPermitted
  else
    match s.checkSession none session with
    | .bad => s.reply ch .inspectSession tag .badHandle
    | .lapsed i => s.hand ch ⟨.inspectSession, tag, .ok, s.sessionReport i⟩
    | .opened i => s.hand ch ⟨.inspectSession, tag, .ok, s.sessionReport i⟩

/-- INSPECT_SESSION (R164). -/
def execInspectSession (ch : Fin 16) (tag : ReqTag) (session : SessionHandle) (s : State) :
    Host.Outcome State Fault Refusal :=
  takeRequest ch (.inspectSession ch tag session) (fun s => s.inspectSession ch tag session) s

/-- What INSPECT_DEVICE reports (R96, R106, R165). -/
def State.deviceReport (s : State) : ReplyBody :=
  .device s.freeClaims s.freeSessions (s.nextSerial.getD 0) s.now (s.requestedPeriod.getD s.period)

/-- INSPECT_DEVICE taken on channel `ch` (R165). -/
def State.inspectDevice (s : State) (ch : Nat) (tag : ReqTag) : State :=
  if ch ≠ 0 then s.reply ch .inspectDevice tag .notPermitted
  else s.hand ch ⟨.inspectDevice, tag, .ok, s.deviceReport⟩

/-- INSPECT_DEVICE (R165). -/
def execInspectDevice (ch : Fin 16) (tag : ReqTag) (s : State) : Host.Outcome State Fault Refusal :=
  takeRequest ch (.inspectDevice ch tag) (fun s => s.inspectDevice ch tag) s

end Sys2Proof.Machine
end

