-- ==== Sys2Proof/Machine/Flags.lean ====
section
/-! DEFINITION. The status words and every other register of the register window as a read returns them (R119, R152,
R172). A read never changes the state. -/

namespace Sys2Proof.Machine

/-- DEVICE_STATUS (R152, R172): READY, and the state and fault cause of channel 0. -/
def State.deviceStatus (s : State) : BitVec 32 :=
  (0#24 ++ (s.chan 0).cause.code ++ 0#1 ++ (s.chan 0).state.code ++ BitVec.ofBool s.ready)

/-- CH_STATUS of a channel (R119, R172): state, fault cause and DMA_BUSY. -/
def Channel.status (c : Channel) : BitVec 32 :=
  (0#23 ++ BitVec.ofBool c.dmaBusy ++ c.cause.code ++ 0#2 ++ c.state.code)

/-- The 32 bits at an offset of the page of a channel (R172). -/
def Channel.readPage (c : Channel) (offset : Nat) : BitVec 32 :=
  if offset = 0x00 then BitVec.ofNat 32 c.reqProd
  else if offset = 0x04 then BitVec.ofNat 32 c.reqCons
  else if offset = 0x08 then BitVec.ofNat 32 c.rplProd
  else if offset = 0x0C then BitVec.ofNat 32 c.rplCons
  else if offset = 0x10 then c.status
  else 0

/-- The 32 bits at an offset of the device page (R172): MGMT_CONTROL, being write-only, reads 0. -/
def State.readDevicePage (s : State) (offset : Nat) : BitVec 32 :=
  if offset = 0x00 then s.deviceStatus
  else if offset = 0x08 then s.mgmt.reqBase.extractLsb' 0 32
  else if offset = 0x0C then s.mgmt.reqBase.extractLsb' 32 32
  else if offset = 0x10 then s.mgmt.reqSize
  else if offset = 0x18 then s.mgmt.rplBase.extractLsb' 0 32
  else if offset = 0x1C then s.mgmt.rplBase.extractLsb' 32 32
  else if offset = 0x20 then s.mgmt.rplSize
  else if offset = 0x24 then s.mgmt.vector
  else 0

/-- A 32-bit read at a 4-byte aligned offset of the register window (R172); an offset that holds no register returns
zero. -/
def State.read32 (s : State) (offset : Nat) : BitVec 32 :=
  if offset < 0x1000 then s.readDevicePage offset
  else if offset < 0x2000 then (s.chan ((offset - 0x1000) / 0x100)).readPage (offset % 0x100)
  else 0

/-- A 64-bit read of a ring base: its two halves (R172). -/
def State.read64 (s : State) (offset : Nat) : BitVec 64 := s.read32 (offset + 4) ++ s.read32 offset

/-- A read narrower than 32 bits, of the byte at an offset: the addressed byte of the register (R172). -/
def State.read8 (s : State) (offset : Nat) : BitVec 8 :=
  (s.read32 (offset - offset % 4)).extractLsb' (8 * (offset % 4)) 8

/-- A 16-bit read at an even offset: the addressed bytes of the register (R172). -/
def State.read16 (s : State) (offset : Nat) : BitVec 16 := s.read8 (offset + 1) ++ s.read8 offset

end Sys2Proof.Machine
end

