-- ==== Sys2Proof/Machine/Registers.lean ====
section
/-! DEFINITION. Register writes (spec/07, spec/09, spec/10): REQ_PROD, RPL_CONS, MGMT_CONTROL, the management ring
registers, and every other write, which is ignored. While READY is 0 every write is ignored (R151, R172). -/

namespace Sys2Proof.Machine

/-- The index that a write of REQ_PROD or RPL_CONS carries: bits 0 to 15 (R172). -/
def indexWritten (value : BitVec 32) : Nat := (value.extractLsb' 0 16).toNat

/-- The arm bit of an RPL_CONS write: bit 31 (R172). -/
def armBit (value : BitVec 32) : Bool := value.getLsbD 31

/-! ### REQ_PROD -/

/-- A REQ_PROD write taken while READY is 1 (R122). -/
def State.writeReqProd (s : State) (ch : Nat) (index : Nat) : State :=
  match (s.chan ch).state with
  | .active =>
    if index < (s.chan ch).reqSize then s.setChan ch { s.chan ch with reqProd := index }
    else s.fault ch .badReqIndex
  | .faulted => s.setChan ch { s.chan ch with reqProd := index }
  | .off => s
  | .closing => s

/-- REQ_PROD_WRITE (R122). -/
def execReqProdWrite (ch : Fin 16) (value : BitVec 32) (s : State) : Host.Outcome State Fault Refusal :=
  .next (if s.ready then s.writeReqProd ch (indexWritten value) else s)

/-! ### RPL_CONS -/

/-- Whether an index written to RPL_CONS is valid (R134): below the size, and from the old index up to RPL_PROD. -/
def Channel.consumerValid (c : Channel) (index : Nat) : Bool :=
  decide (index < c.rplSize)
    && decide (ringDiff index c.rplCons c.rplSize ≤ ringDiff c.rplProd c.rplCons c.rplSize)

/-- One notice written from the head of channel `ch`'s pending-notice list, if an unreserved slot is free (R146). -/
def State.noticeTurn (s : State) (ch : Nat) : Option State :=
  match (s.chan ch).notices with
  | n :: rest =>
    if 1 ≤ (s.chan ch).unreserved then
      some ((s.setChan ch { (s.chan ch).issue n.bytes with notices := rest }).markLapse n false)
    else none
  | [] => none

/-- The arming of channel `ch` (R135): the interrupt is sent at once if an entry is produced and not consumed. -/
def State.arm (s : State) (ch : Nat) : State :=
  if (s.chan ch).rplProd ≠ (s.chan ch).rplCons then (s.sendInterrupt ch).disarm ch
  else s.setChan ch { s.chan ch with armed := true }

/-- A valid RPL_CONS write on an ACTIVE channel (R134, R146): the index is stored, pending notices are written, and the
channel is armed. Its last act, the fetch test, is `Channel.ready`. -/
def State.consume (s : State) (ch : Nat) (index : Nat) (arm : Bool) : State :=
  let s := s.setChan ch { s.chan ch with rplCons := index }
  let s := repeatTurn (·.noticeTurn ch) (s.chan ch).notices.length s
  if arm then s.arm ch else s

/-- An RPL_CONS write taken while READY is 1 (R134). -/
def State.writeRplCons (s : State) (ch : Nat) (index : Nat) (arm : Bool) : State :=
  match (s.chan ch).state with
  | .active => if (s.chan ch).consumerValid index then s.consume ch index arm else s.fault ch .badRplIndex
  | .faulted => s.setChan ch { s.chan ch with rplCons := index }
  | .off => s
  | .closing => s

/-- RPL_CONS_WRITE (R134). -/
def execRplConsWrite (ch : Fin 16) (value : BitVec 32) (s : State) : Host.Outcome State Fault Refusal :=
  .next (if s.ready then s.writeRplCons ch (indexWritten value) (armBit value) else s)

/-! ### MGMT_CONTROL -/

/-- The ring settings that the management ring registers hold (R153). -/
def MgmtRegs.rings (m : MgmtRegs) : Rings :=
  ⟨m.reqBase, m.reqSize.toNat, m.rplBase, m.rplSize.toNat, m.vector.toNat⟩

/-- The interrupt of a BAD_SETUP (R154): on the vector in MGMT_VECTOR if that is from 0 to 15. -/
def State.setupInterrupt (s : State) : State :=
  if s.mgmt.vector ≤ 15 then { s with interrupts := s.interrupts ++ [s.mgmt.vector.toNat] } else s

/-- Channel 0 made ACTIVE with the settings of the registers (R153, R155). -/
def State.startManagement (s : State) : State :=
  s.setChan 0 { s.chan 0 with rings := some s.mgmt.rings }.ringStart

/-- Channel 0 made FAULTED with cause BAD_SETUP, its configuration as it was (R153, R154, R155). -/
def State.badSetup (s : State) : State :=
  (s.setChan 0 { s.chan 0 with state := .faulted, cause := .badSetup, armed := false }).setupInterrupt

/-- ENABLE while channel 0 is OFF (R153). -/
def State.enable (s : State) : State := if s.mgmt.rings.valid then s.startManagement else s.badSetup

/-- RESTART while channel 0 is FAULTED (R155). -/
def State.restartManagement (s : State) : State :=
  if (s.chan 0).dmaBusy then s else if s.mgmt.rings.valid then s.startManagement else s.badSetup

/-- A MGMT_CONTROL write (R153, R155): the bit that matches channel 0's state acts. Other bits are ignored (R172). -/
def State.writeMgmtControl (s : State) (value : BitVec 32) : State :=
  match (s.chan 0).state with
  | .off => if value.getLsbD 0 then s.enable else s
  | .faulted => if value.getLsbD 1 then s.restartManagement else s
  | .active => s
  | .closing => s

/-- MGMT_CONTROL_ENABLE (R153). -/
def execMgmtControlEnable (value : BitVec 32) (s : State) : Host.Outcome State Fault Refusal :=
  .next (if s.ready then s.writeMgmtControl value else s)

/-- MGMT_CONTROL_RESTART (R155). -/
def execMgmtControlRestart (value : BitVec 32) (s : State) : Host.Outcome State Fault Refusal :=
  .next (if s.ready then s.writeMgmtControl value else s)

/-! ### The management ring registers -/

/-- A management ring register write stored as written (R152); a write of one half of a ring base leaves the other half as
it was (R172). -/
def MgmtRegs.store (m : MgmtRegs) (reg : RingRegister) (value : BitVec 64) : MgmtRegs :=
  match reg with
  | .reqBase => { m with reqBase := value }
  | .reqBaseLow => { m with reqBase := m.reqBase.extractLsb' 32 32 ++ value.setWidth 32 }
  | .reqBaseHigh => { m with reqBase := value.setWidth 32 ++ m.reqBase.extractLsb' 0 32 }
  | .reqSize => { m with reqSize := value.setWidth 32 }
  | .rplBase => { m with rplBase := value }
  | .rplBaseLow => { m with rplBase := m.rplBase.extractLsb' 32 32 ++ value.setWidth 32 }
  | .rplBaseHigh => { m with rplBase := value.setWidth 32 ++ m.rplBase.extractLsb' 0 32 }
  | .rplSize => { m with rplSize := value.setWidth 32 }
  | .vector => { m with vector := value.setWidth 32 }

/-- MGMT_RING_REGISTER_WRITE (R152): stored while channel 0 is OFF or FAULTED, ignored while it is ACTIVE. -/
def execMgmtRingRegisterWrite (reg : RingRegister) (value : BitVec 64) (s : State) :
    Host.Outcome State Fault Refusal :=
  .next (if s.ready ∧ ((s.chan 0).state = .off ∨ (s.chan 0).state = .faulted) then
    { s with mgmt := s.mgmt.store reg value } else s)

/-- OTHER_REGISTER_WRITE (R172): ignored. -/
def execOtherRegisterWrite (_offset : BitVec 13) (_bytes : Nat) (_value : BitVec 64) (s : State) :
    Host.Outcome State Fault Refusal :=
  .next s

end Sys2Proof.Machine
end

