-- ==== Sys2Proof/Machine/Dispatch.lean ====
section
/-! DEFINITION. The meaning of every command: one direct call for each row of spec/opcode_table.json. -/

namespace Sys2Proof.Machine

def exec (i : Instr) (s : State) : Host.Outcome State Fault Refusal :=
  match i with
  | .openSession ch tag period notices => Sys2Proof.Machine.execOpenSession ch tag period notices s
  | .closeSession ch tag session => Sys2Proof.Machine.execCloseSession ch tag session s
  | .keepalive ch tag session => Sys2Proof.Machine.execKeepalive ch tag session s
  | .acquire ch tag session domain mode wait name => Sys2Proof.Machine.execAcquire ch tag session domain mode wait name s
  | .convert ch tag claim mode present invalidate wait value => Sys2Proof.Machine.execConvert ch tag claim mode present invalidate wait value s
  | .release ch tag claim present invalidate value => Sys2Proof.Machine.execRelease ch tag claim present invalidate value s
  | .cancel ch tag session domain name => Sys2Proof.Machine.execCancel ch tag session domain name s
  | .checkFence ch tag session domain name serial => Sys2Proof.Machine.execCheckFence ch tag session domain name serial s
  | .unknownKindRequest ch tag kind => Sys2Proof.Machine.execUnknownKindRequest ch tag kind s
  | .setupChannel ch tag target vector sessionLimit claimLimit reqBase rplBase reqSize rplSize => Sys2Proof.Machine.execSetupChannel ch tag target vector sessionLimit claimLimit reqBase rplBase reqSize rplSize s
  | .teardownChannel ch tag target => Sys2Proof.Machine.execTeardownChannel ch tag target s
  | .restartChannel ch tag target => Sys2Proof.Machine.execRestartChannel ch tag target s
  | .setAccess ch tag target domain level => Sys2Proof.Machine.execSetAccess ch tag target domain level s
  | .setLimits ch tag target sessionLimit claimLimit => Sys2Proof.Machine.execSetLimits ch tag target sessionLimit claimLimit s
  | .setTick ch tag period => Sys2Proof.Machine.execSetTick ch tag period s
  | .evictSession ch tag session => Sys2Proof.Machine.execEvictSession ch tag session s
  | .discardResource ch tag domain name => Sys2Proof.Machine.execDiscardResource ch tag domain name s
  | .inspectResource ch tag domain name => Sys2Proof.Machine.execInspectResource ch tag domain name s
  | .inspectSession ch tag session => Sys2Proof.Machine.execInspectSession ch tag session s
  | .inspectDevice ch tag => Sys2Proof.Machine.execInspectDevice ch tag s
  | .reqProdWrite ch value => Sys2Proof.Machine.execReqProdWrite ch value s
  | .rplConsWrite ch value => Sys2Proof.Machine.execRplConsWrite ch value s
  | .mgmtControlEnable value => Sys2Proof.Machine.execMgmtControlEnable value s
  | .mgmtControlRestart value => Sys2Proof.Machine.execMgmtControlRestart value s
  | .mgmtRingRegisterWrite reg value => Sys2Proof.Machine.execMgmtRingRegisterWrite reg value s
  | .otherRegisterWrite offset bytes value => Sys2Proof.Machine.execOtherRegisterWrite offset bytes value s
  | .tick => Sys2Proof.Machine.execTick s
  | .keepaliveExpiry session => Sys2Proof.Machine.execKeepaliveExpiry session s
  | .waitExpiry claim => Sys2Proof.Machine.execWaitExpiry claim s
  | .fetchIssue => Sys2Proof.Machine.execFetchIssue s
  | .fetchCompletion ch entries => Sys2Proof.Machine.execFetchCompletion ch entries s
  | .fetchError ch => Sys2Proof.Machine.execFetchError ch s
  | .writeCompletion ch => Sys2Proof.Machine.execWriteCompletion ch s
  | .writeError ch => Sys2Proof.Machine.execWriteError ch s
  | .teardownEnd ch => Sys2Proof.Machine.execTeardownEnd ch s
  | .deviceReset => Sys2Proof.Machine.execDeviceReset s
  | .startupEnd => Sys2Proof.Machine.execStartupEnd s

end Sys2Proof.Machine
end

