-- ==== Sys2Proof/Safety.lean ====
section
/-! DEFINITION. What claims about the LC16 speak of: the changes of a channel's state that each command may make, what it
is for a request to be refused, and the rules that hold of the tables between commands. -/

namespace Sys2Proof

open Machine

/-- Whether a command may take channel `n` from state `a` to another state `b` (R120, R151, R158). -/
def Instr.transition (c : Instr) (n : Nat) (a b : ChanState) : Bool :=
  match c with
  | .setupChannel _ _ target _ _ _ _ _ _ _ => n == target.toNat && a == .off && b == .active
  | .mgmtControlEnable _ | .mgmtControlRestart _ =>
    n == 0 && ((a == .off && (b == .active || b == .faulted)) || (a == .faulted && b == .active))
  | .reqProdWrite ch _ | .rplConsWrite ch _ => n == ch && a == .active && b == .faulted
  | .fetchError ch | .writeError ch =>
    n == ch && ((a == .active && b == .faulted) || (a == .closing && b == .off))
  | .fetchCompletion ch _ | .writeCompletion ch | .teardownEnd ch => n == ch && a == .closing && b == .off
  | .restartChannel _ _ target => n == target.toNat && a == .faulted && b == .active
  | .teardownChannel _ _ target =>
    n == target.toNat && (((a == .active || a == .faulted) && (b == .closing || b == .off))
      || (a == .closing && b == .off))
  | .deviceReset | .startupEnd => b == .off
  | .openSession .. | .closeSession .. | .keepalive .. | .acquire .. | .convert .. | .release .. | .cancel ..
  | .checkFence .. | .unknownKindRequest .. | .setAccess .. | .setLimits .. | .setTick .. | .evictSession ..
  | .discardResource .. | .inspectResource .. | .inspectSession .. | .inspectDevice .. | .mgmtRingRegisterWrite ..
  | .otherRegisterWrite .. | .tick | .keepaliveExpiry .. | .waitExpiry .. | .fetchIssue => false

/-- Whether a command may open, renew, lapse or free session record `i`: a request of a client channel reaches the FREE
records and those of its own channel, a management request reaches every record, and a delivery of a keepalive expiry
reaches its own record (R75, R81, R156). -/
def Instr.reaches (c : Instr) (s : State) (i : Nat) : Prop :=
  (∃ ch, c.requestChannel = some ch ∧ (ch = 0 ∨ (s.session i).channel = none ∨ (s.session i).channel = some ch.val))
    ∨ ∃ j : Fin 512, c = .keepaliveExpiry j ∧ i = j

/-! ### Requests -/

/-- The kind that the reply to a request carries (R168). -/
def Instr.replyKind : Instr → Kind
  | .openSession .. => .openSession
  | .closeSession .. => .closeSession
  | .keepalive .. => .keepalive
  | .acquire .. => .acquire
  | .convert .. => .convert
  | .release .. => .release
  | .cancel .. => .cancel
  | .checkFence .. => .checkFence
  | .setupChannel .. => .setupChannel
  | .teardownChannel .. => .teardownChannel
  | .restartChannel .. => .restartChannel
  | .setAccess .. => .setAccess
  | .setLimits .. => .setLimits
  | .setTick .. => .setTick
  | .evictSession .. => .evictSession
  | .discardResource .. => .discardResource
  | .inspectResource .. => .inspectResource
  | .inspectSession .. => .inspectSession
  | .inspectDevice .. => .inspectDevice
  | .unknownKindRequest .. | .reqProdWrite .. | .rplConsWrite .. | .mgmtControlEnable .. | .mgmtControlRestart ..
  | .mgmtRingRegisterWrite .. | .otherRegisterWrite .. | .tick | .keepaliveExpiry .. | .waitExpiry .. | .fetchIssue
  | .fetchCompletion .. | .fetchError .. | .writeCompletion .. | .writeError .. | .teardownEnd .. | .deviceReset
  | .startupEnd => .unknown

/-- The request tag of a request (R169); 0 for a command that is no request. -/
def Instr.requestTag : Instr → ReqTag
  | .openSession _ tag .. | .closeSession _ tag .. | .keepalive _ tag .. | .acquire _ tag .. | .convert _ tag ..
  | .release _ tag .. | .cancel _ tag .. | .checkFence _ tag .. | .unknownKindRequest _ tag .. | .setupChannel _ tag ..
  | .teardownChannel _ tag .. | .restartChannel _ tag .. | .setAccess _ tag .. | .setLimits _ tag .. | .setTick _ tag ..
  | .evictSession _ tag .. | .discardResource _ tag .. | .inspectResource _ tag .. | .inspectSession _ tag ..
  | .inspectDevice _ tag .. => tag
  | .reqProdWrite .. | .rplConsWrite .. | .mgmtControlEnable .. | .mgmtControlRestart .. | .mgmtRingRegisterWrite ..
  | .otherRegisterWrite .. | .tick | .keepaliveExpiry .. | .waitExpiry .. | .fetchIssue | .fetchCompletion ..
  | .fetchError .. | .writeCompletion .. | .writeError .. | .teardownEnd .. | .deviceReset | .startupEnd => 0

/-- The requests that a client channel carries (R45, R168: kinds 0x0001 to 0x0008). -/
def Instr.isClientRequest : Instr → Bool
  | .openSession .. | .closeSession .. | .keepalive .. | .acquire .. | .convert .. | .release .. | .cancel ..
  | .checkFence .. => true
  | .unknownKindRequest .. | .setupChannel .. | .teardownChannel .. | .restartChannel .. | .setAccess ..
  | .setLimits .. | .setTick .. | .evictSession .. | .discardResource .. | .inspectResource .. | .inspectSession ..
  | .inspectDevice .. | .reqProdWrite .. | .rplConsWrite .. | .mgmtControlEnable .. | .mgmtControlRestart ..
  | .mgmtRingRegisterWrite .. | .otherRegisterWrite .. | .tick | .keepaliveExpiry .. | .waitExpiry .. | .fetchIssue
  | .fetchCompletion .. | .fetchError .. | .writeCompletion .. | .writeError .. | .teardownEnd .. | .deviceReset
  | .startupEnd => false

/-- The requests that channel 0 carries (R156, R168: kinds 0x0020 to 0x002A). -/
def Instr.isManagementRequest : Instr → Bool
  | .setupChannel .. | .teardownChannel .. | .restartChannel .. | .setAccess .. | .setLimits .. | .setTick ..
  | .evictSession .. | .discardResource .. | .inspectResource .. | .inspectSession .. | .inspectDevice .. => true
  | .openSession .. | .closeSession .. | .keepalive .. | .acquire .. | .convert .. | .release .. | .cancel ..
  | .checkFence .. | .unknownKindRequest .. | .reqProdWrite .. | .rplConsWrite .. | .mgmtControlEnable ..
  | .mgmtControlRestart .. | .mgmtRingRegisterWrite .. | .otherRegisterWrite .. | .tick | .keepaliveExpiry ..
  | .waitExpiry .. | .fetchIssue | .fetchCompletion .. | .fetchError .. | .writeCompletion .. | .writeError ..
  | .teardownEnd .. | .deviceReset | .startupEnd => false

/-- A target channel from 1 to 15 (R156). -/
def targetInRange (target : BitVec 8) : Bool := decide (1 ≤ target.toNat ∧ target.toNat ≤ 15)

/-- A power of two from 16 to 4,096 (R157). -/
def sizeInRange (n : Nat) : Bool := (List.range 9).any fun k => n == 2 ^ (k + 4)

/-- The field ranges that the second check of a request tests (R46, R76, R96, R157, R161, R162). -/
def Instr.inRange : Instr → Bool
  | .openSession _ _ period _ => decide (1 ≤ period.toNat)
  | .acquire _ _ _ domain mode _ _ => decide (domain.toNat ≤ 15) && decide (1 ≤ mode.toNat ∧ mode.toNat ≤ 3)
  | .convert _ _ _ mode present invalidate _ _ =>
    decide (1 ≤ mode.toNat ∧ mode.toNat ≤ 3) && !(present && invalidate)
  | .release _ _ _ present invalidate _ => !(present && invalidate)
  | .cancel _ _ _ domain _ => decide (domain.toNat ≤ 15)
  | .checkFence _ _ _ domain _ _ => decide (domain.toNat ≤ 15)
  | .setupChannel _ _ target vector sessionLimit claimLimit reqBase rplBase reqSize rplSize =>
    targetInRange target && decide (vector.toNat ≤ 15) && decide (sessionLimit.toNat ≤ 512)
      && decide (claimLimit.toNat ≤ 32768) && reqBase.toNat % 64 == 0 && rplBase.toNat % 64 == 0
      && sizeInRange reqSize.toNat && sizeInRange rplSize.toNat
  | .teardownChannel _ _ target => targetInRange target
  | .restartChannel _ _ target => targetInRange target
  | .setAccess _ _ target domain level =>
    targetInRange target && decide (domain.toNat ≤ 15) && decide (level.toNat ≤ 2)
  | .setLimits _ _ target sessionLimit claimLimit =>
    targetInRange target && decide (sessionLimit.toNat ≤ 512) && decide (claimLimit.toNat ≤ 32768)
  | .setTick _ _ period => decide (10 ≤ period.toNat ∧ period.toNat ≤ 1000000)
  | .discardResource _ _ domain _ => decide (domain.toNat ≤ 15)
  | .inspectResource _ _ domain _ => decide (domain.toNat ≤ 15)
  | .closeSession .. | .keepalive .. | .evictSession .. | .inspectSession .. | .inspectDevice ..
  | .unknownKindRequest .. | .reqProdWrite .. | .rplConsWrite .. | .mgmtControlEnable .. | .mgmtControlRestart ..
  | .mgmtRingRegisterWrite .. | .otherRegisterWrite .. | .tick | .keepaliveExpiry .. | .waitExpiry .. | .fetchIssue
  | .fetchCompletion .. | .fetchError .. | .writeCompletion .. | .writeError .. | .teardownEnd .. | .deviceReset
  | .startupEnd => true

/-- The session handle that a request is checked by (R47, R156): the handle 0xFFFF in a CHECK_FENCE names no session and is
not checked (R111). -/
def Instr.sessionArgument : Instr → Option SessionHandle
  | .closeSession _ _ session => some session
  | .keepalive _ _ session => some session
  | .acquire _ _ session .. => some session
  | .cancel _ _ session .. => some session
  | .checkFence _ _ session .. => if session = noSession then none else some session
  | .evictSession _ _ session => some session
  | .inspectSession _ _ session => some session
  | .openSession .. | .convert .. | .release .. | .unknownKindRequest .. | .setupChannel .. | .teardownChannel ..
  | .restartChannel .. | .setAccess .. | .setLimits .. | .setTick .. | .discardResource .. | .inspectResource ..
  | .inspectDevice .. | .reqProdWrite .. | .rplConsWrite .. | .mgmtControlEnable .. | .mgmtControlRestart ..
  | .mgmtRingRegisterWrite .. | .otherRegisterWrite .. | .tick | .keepaliveExpiry .. | .waitExpiry .. | .fetchIssue
  | .fetchCompletion .. | .fetchError .. | .writeCompletion .. | .writeError .. | .teardownEnd .. | .deviceReset
  | .startupEnd => none

/-- The claim handle that a request is checked by (R29). -/
def Instr.claimArgument : Instr → Option ClaimHandle
  | .convert _ _ claim .. => some claim
  | .release _ _ claim .. => some claim
  | .openSession .. | .closeSession .. | .keepalive .. | .acquire .. | .cancel .. | .checkFence ..
  | .unknownKindRequest .. | .setupChannel .. | .teardownChannel .. | .restartChannel .. | .setAccess ..
  | .setLimits .. | .setTick .. | .evictSession .. | .discardResource .. | .inspectResource .. | .inspectSession ..
  | .inspectDevice .. | .reqProdWrite .. | .rplConsWrite .. | .mgmtControlEnable .. | .mgmtControlRestart ..
  | .mgmtRingRegisterWrite .. | .otherRegisterWrite .. | .tick | .keepaliveExpiry .. | .waitExpiry .. | .fetchIssue
  | .fetchCompletion .. | .fetchError .. | .writeCompletion .. | .writeError .. | .teardownEnd .. | .deviceReset
  | .startupEnd => none

/-- The target channel of a management request that carries one and tests its state (R156). -/
def Instr.targetArgument : Instr → Option (BitVec 8)
  | .setupChannel _ _ target .. => some target
  | .teardownChannel _ _ target => some target
  | .restartChannel _ _ target => some target
  | .setAccess _ _ target .. => some target
  | .setLimits _ _ target .. => some target
  | .openSession .. | .closeSession .. | .keepalive .. | .acquire .. | .convert .. | .release .. | .cancel ..
  | .checkFence .. | .unknownKindRequest .. | .setTick .. | .evictSession .. | .discardResource ..
  | .inspectResource .. | .inspectSession .. | .inspectDevice .. | .reqProdWrite .. | .rplConsWrite ..
  | .mgmtControlEnable .. | .mgmtControlRestart .. | .mgmtRingRegisterWrite .. | .otherRegisterWrite .. | .tick
  | .keepaliveExpiry .. | .waitExpiry .. | .fetchIssue | .fetchCompletion .. | .fetchError .. | .writeCompletion ..
  | .writeError .. | .teardownEnd .. | .deviceReset | .startupEnd => none

namespace Machine

/-- A session handle passes the check on channel `ch` (R75): it is not 0xFFFF, its tag is the record's, the record is not
FREE, and on a client channel the session is that channel's. -/
def State.knowsSession (s : State) (ch : Nat) (h : SessionHandle) : Prop :=
  h ≠ noSession ∧ (s.session (sessionIndex h)).tag = sessionTag h ∧
    ∃ n, (s.session (sessionIndex h)).channel = some n ∧ (ch = 0 ∨ ch = n)

/-- A claim handle passes the check on channel `ch` (R29): its 9 zero bits are zero, its tag is the record's, the record
is in use, and the claim's session is that channel's. -/
def State.knowsClaim (s : State) (ch : Nat) (h : ClaimHandle) : Prop :=
  h.toNat < 2 ^ 23 ∧ (s.claim (claimIndex h)).tag = claimTag h ∧
    ∃ b, s.claimAt (claimIndex h) = some b ∧ (s.session b.session).channel = some ch

/-- Handle `h` names the OPEN session `i` of channel `ch`, whose fields are `o` (R75). -/
def State.namesOpen (s : State) (ch : Nat) (h : SessionHandle) (i : Nat) (o : OpenSession) : Prop :=
  i < 512 ∧ h = Machine.sessionHandle i (s.session i).tag ∧ h ≠ noSession ∧ (s.session i).state = .opened o ∧ o.channel = ch

/-- Handle `h` names claim `b` in record `c`, and the claim's session is the OPEN session `o` of channel `ch` (R29). -/
def State.namesClaim (s : State) (ch : Nat) (h : ClaimHandle) (c : Nat) (b : Claim) (o : OpenSession) : Prop :=
  c < 32768 ∧ h = Machine.claimHandle c (s.claim c).tag ∧ s.claimAt c = some b ∧ (s.session b.session).state = .opened o ∧
    o.channel = ch

/-- A channel that has taken its next entry and answered it with reply `r` (R127, R130): the entry leaves the fetch, the
reply is written at the next position of the reply ring with the phase flag of that moment, the phase flips past the last
position, and one reservation is used up. -/
def Channel.answered (c : Channel) (r : Reply) : Channel :=
  { c with
    fetch := c.fetch.afterTaking
    writes := c.writes ++ [⟨c.replyAddress c.writePosition, r.bytes c.phase⟩]
    phase := if c.writePosition + 1 = c.rplSize then !c.phase else c.phase
    owed := c.owed - 1 }

/-- The state after a request of channel `ch` that does no more than answer `r`. -/
def State.answered (s : State) (ch : Nat) (r : Reply) : State := s.setChan ch ((s.chan ch).answered r)

/-- The last entry written on a channel's reply ring is reply `r` (R130): at the position behind the writes in flight before
it, with the phase flag of that moment, which the record shows flipped if the position is the last of the ring. -/
def Channel.answeredLast (c : Channel) (r : Reply) : Prop := ∃ before,
  let pos := (c.rplProd + before.length) % c.rplSize
  c.writes = before ++ [⟨c.replyAddress pos, r.bytes (if pos + 1 = c.rplSize then !c.phase else c.phase)⟩]

/-- The deferred reply, with status `status`, of a claim whose session lapses or closes (R82, R86): of its ACQUIRE while it is
WAITING, of its CONVERT while it is CONVERTING, and none while it is HELD. -/
def Claim.deferred (b : Claim) (status : Status) : Option Reply :=
  match b.state with
  | .waiting _ wait => some ⟨.acquire, wait.tag, status, .header⟩
  | .converting _ _ wait => some ⟨.convert, wait.tag, status, .header⟩
  | .held _ => none

/-- A reply, if there is one, handed to channel `ch`. -/
def State.handSome (s : State) (ch : Nat) (r : Option Reply) : State :=
  match r with
  | some r => s.hand ch r
  | none => s

/-- The serial that a grant in mode `m` draws (R37): the next one for X, none for S and U. -/
def State.serialFor (s : State) (m : Mode) : Option Serial := if m = .exclusive then s.nextSerial else none

/-- The Fence Counter after a grant in mode `m` (R106, R107): it advances by one for X, and the last serial exhausts it. -/
def State.counterAfter (s : State) (m : Mode) : Option Serial :=
  match s.serialFor m with
  | some n => if n.toNat = 2 ^ 48 - 1 then none else some (n + 1)
  | none => s.nextSerial

/-- The fields of an OPEN session renewed at `now` (R78). -/
def OpenSession.renewedAt (o : OpenSession) (now : Tick) : OpenSession :=
  { o with deadline := ⟨now + o.period.setWidth 32, false⟩ }

/-- The fields of session record `i` with tag `tag` once it is freed (R75, R87): the tag advances by one, and wraps from 127
to 0, in record 511 from 126 to 0. -/
def SessionRec.freed (i : Nat) (tag : BitVec 7) : SessionRec :=
  ⟨if i = 511 ∧ tag.toNat = 126 then 0 else BitVec.ofNat 7 (tag.toNat + 1), .free⟩

/-- The channels, and everything that requests of sessions and claims do not move: the states of all channels, time, the
tick period, READY and the queue of commands. -/
def State.sameFrame (s t : State) : Prop :=
  (∀ n, (t.chan n).state = (s.chan n).state) ∧ t.ready = s.ready ∧ t.now = s.now ∧ t.period = s.period ∧
    t.requestedPeriod = s.requestedPeriod ∧ t.mgmt = s.mgmt ∧ t.pending = s.pending

/-- Every table, record and register at its device reset value (R21, R31, R92, R105, R118, R119, R125, R151): channels OFF,
session and claim records free with tag 0, ways FREE, dormant orders empty, next serial 1, now 0, period 1,000. -/
def State.atReset (s : State) : Prop :=
  s.mgmt = ⟨0, 0, 0, 0, 0⟩ ∧ (∀ n, s.chan n = Channel.reset) ∧ s.lastGranted = 15 ∧
    (∀ n, s.teardownReplies.get n = none) ∧ (∀ i, s.session i = ⟨0, .free⟩) ∧ (∀ c, s.claim c = ⟨0, none⟩) ∧
    (∀ w, s.way w = .free) ∧ (∀ b, s.dormantOrder b = []) ∧ s.nextSerial = some 1 ∧ s.now = 0 ∧ s.period = 1000 ∧
    s.requestedPeriod = none

/-- An ACQUIRE of key `k` in mode `m` that passes every check up to the Resource Table (R45 to R49): it comes from a client
channel and names the OPEN session `i` with fields `o`, the channel has FULL access in the key's domain, the session has no
claim on the key, the channel is below its claim limit, a claim record is free, and X finds a serial to draw. -/
structure State.AcquirePasses (s : State) (ch : Nat) (h : SessionHandle) (i : Nat) (o : OpenSession) (k : Key) (m : Mode) :
    Prop where
  client : ch ≠ 0
  session : s.namesOpen ch h i o
  access : (s.chan ch).access.get k.domain.toNat = .full
  single : ∀ c ∈ o.claims, ∀ b, s.claimAt c = some b → (s.entry b.way).key ≠ k
  quota : s.claimCount ch < (s.chan ch).claimLimit
  record : s.freeClaims ≠ 0
  serial : m = .exclusive → s.nextSerial ≠ none

/-- The session `i` of an ACQUIRE renewed and with the new claim `c` at the tail of its list (R26, R78). -/
def State.withNewClaim (s : State) (i : Nat) (o : OpenSession) (c : Nat) (b : Claim) : State :=
  { s with
    sessions := s.sessions.set i ⟨(s.session i).tag, .opened { o.renewedAt s.now with claims := o.claims ++ [c] }⟩
    claims := s.claims.set c ⟨(s.claim c).tag, some b⟩
    choices := s.choices + 1 }

/-- Session record `i`, whose fields are `o`, renewed (R47, R78). -/
def State.renewed (s : State) (i : Nat) (o : OpenSession) : State :=
  s.setSession i ⟨(s.session i).tag, .opened (o.renewedAt s.now)⟩

/-- The wait deadline of a wait limit from 1 to 65,535 (R52): none for 65,535, and else now plus the limit. -/
def State.waitUntil (s : State) (limit : BitVec 16) : Option Deadline :=
  if limit.toNat = 65535 then none else some ⟨s.now + limit.setWidth 32, false⟩

/-- Claim `c` of the OPEN session `i`, whose fields are `o`, at way `w` with entry `e`, freed (R28): it leaves the lists of the
entry and of its session, a CONTENTION notice for it leaves the channel's list, its fields are discarded, and its tag
advances. -/
def State.withFreedClaim (s : State) (i : Nat) (o : OpenSession) (c w : Nat) (e : Entry) : State :=
  { s.dropNotices o.channel (Notice.contentionOf c) with
    sessions := s.sessions.set i ⟨(s.session i).tag, .opened { o with claims := o.claims.filter (· != c) }⟩
    claims := s.claims.set c ⟨(s.claim c).tag + 1, none⟩
    ways := s.ways.set w (.active { e with
      holders := e.holders.filter (· != c), converts := e.converts.filter (· != c), waits := e.waits.filter (· != c) }) }

/-- What the close of the OPEN session `i`, whose fields are `o`, leaves when claim `c` at way `b.way` with entry `e` is its one
claim (R86, R87): the claim is freed with the value as it was, a deferred reply is answered WITHDRAWN, the event at the
entry ends, and then the record is freed. -/
def State.closedAlone (s : State) (i : Nat) (o : OpenSession) (c : Nat) (b : Claim) (e : Entry) : State :=
  (((s.withFreedClaim i o c b.way e).handSome o.channel (b.deferred .withdrawn)).finish b.way).setSession i
    (SessionRec.freed i (s.session i).tag)

/-- What the lapse of the OPEN session `i`, whose fields are `o`, leaves when claim `c` at way `b.way` with entry `e` is its one
claim (R82, R83): the record is LAPSED, the claim is freed, the value of an X holder is invalidated, a deferred reply is
answered LAPSED, the event at the entry ends, and then the SESSION_LAPSED notice of one claim is raised. -/
def State.lapsedAlone (s : State) (i : Nat) (o : OpenSession) (c : Nat) (b : Claim) (e : Entry) (reason : LapseReason) :
    State :=
  let value := if b.state = .held .exclusive then e.value.invalidated else e.value
  let freed := { s.withFreedClaim i o c b.way { e with value := value } with
    sessions := s.sessions.set i ⟨(s.session i).tag, .lapsed ⟨o.channel, reason, false⟩⟩ }
  ((freed.handSome o.channel (b.deferred .lapsed)).finish b.way).raise o.channel
    (.sessionLapsed i (s.sessionHandle i) reason s.now 1)

/-- Claim `c` is the one claim of session `i`, whose fields are `o`, and stands at the ACTIVE way `b.way` with entry `e`. -/
def State.onlyClaim (s : State) (i : Nat) (o : OpenSession) (c : Nat) (b : Claim) (e : Entry) : Prop :=
  o.claims = [c] ∧ s.claimAt c = some b ∧ b.session = i ∧ s.way b.way = .active e

/-- Claim `c` of list `claims` is the sole holder of X at the ACTIVE way `w` with entry `e`, whose queues are empty and whose
value is VALID `v`. -/
def State.soleExclusive (s : State) (claims : List Nat) (c w : Nat) (e : Entry) (v : ValueWord) : Prop :=
  c ∈ claims ∧ (∃ b, s.claimAt c = some b ∧ b.state = .held .exclusive ∧ b.way = w) ∧ s.way w = .active e ∧
    e.holders = [c] ∧ e.converts = [] ∧ e.waits = [] ∧ e.value = .valid v

/-- Claim `c`, whose fields are `b`, HELD in mode `m` from now on at way `w` with entry `e` (R35, R37, R42, R57): a CONTENTION
notice for it leaves the list of channel `ch` and its noticed flag clears; for X the next serial is drawn into the claim and
the entry. -/
def State.withRaised (s : State) (ch c w : Nat) (b : Claim) (e : Entry) (m : Mode) : State :=
  { s.dropNotices ch (Notice.contentionOf c) with
    claims := s.claims.set c ⟨(s.claim c).tag,
      some { b with state := .held m, noticed := false, serial := (s.serialFor m).or b.serial }⟩
    ways := s.ways.set w (.active { e with serial := (s.serialFor m).getD e.serial })
    nextSerial := s.counterAfter m }

/-- What the grant at arrival of an ACQUIRE leaves (R13, R26, R37, R39, R50): record `c`, with its tag kept, holds a HELD claim
in mode `m` with the serial it drew; it stands at the tail of the session's list and of the holder list of way `w`, whose
entry was `e` and takes the serial; and the GRANTED reply carries its handle, mode, value, tick and serial. -/
def State.withGrant (s : State) (ch : Nat) (tag : ReqTag) (i : Nat) (o : OpenSession) (c w : Nat) (e : Entry) (m : Mode) :
    State :=
  { s.withNewClaim i o c ⟨i, w, .held m, s.serialFor m, false⟩ with
    ways := s.ways.set w
      (.active { e with holders := e.holders ++ [c], serial := (s.serialFor m).getD e.serial })
    nextSerial := s.counterAfter m }.answered ch
      ⟨.acquire, tag, .granted, .granted (s.claimHandle c) m e.value s.now ((s.serialFor m).getD 0)⟩

/-! ### Ring entries, byte by byte -/

/-- A field of a ring entry: the byte it begins at, its length in bytes, and its value, little-endian (R169). -/
structure ByteField where
  start : Nat
  length : Nat
  value : Nat

/-- Entry `e` holds the given fields, each value cut to its length, and zero in every other byte. -/
def holdsFields (e : RingEntry) (fields : List ByteField) : Prop :=
  (∀ f ∈ fields, e.toNat / 256 ^ f.start % 256 ^ f.length = f.value % 256 ^ f.length) ∧
    ∀ k < 64, (∀ f ∈ fields, k < f.start ∨ f.start + f.length ≤ k) → e.toNat / 256 ^ k % 256 = 0

/-- The body fields of a reply (R170). -/
def ReplyBody.fields : ReplyBody → List ByteField
  | .header => []
  | .granted claim mode value tick serial =>
    [⟨8, 4, claim.toNat⟩, ⟨14, 1, mode.code.toNat⟩, ⟨15, 1, value.code.toNat⟩, ⟨16, 4, tick.toNat⟩, ⟨20, 6, serial.toNat⟩,
      ⟨32, 32, match value with | .absent => 0 | .valid v => v.toNat | .invalid v => v.toNat⟩]
  | .claimMode claim mode => [⟨8, 4, claim.toNat⟩, ⟨14, 1, match mode with | some m => m.code.toNat | none => 0⟩]
  | .sessionTick session tick => [⟨12, 2, session.toNat⟩, ⟨16, 4, tick.toNat⟩]
  | .fence verdict reason serial => [⟨8, 1, verdict.code.toNat⟩, ⟨9, 1, reason.code.toNat⟩, ⟨20, 6, serial.toNat⟩]
  | .level old => [⟨8, 1, old.code.toNat⟩]
  | .resource way holders exclusive converts waits serial value =>
    [⟨8, 1, way.code.toNat⟩, ⟨9, 1, value.code.toNat⟩, ⟨10, 2, holders⟩, ⟨12, 2, exclusive.toNat⟩, ⟨14, 2, converts⟩,
      ⟨16, 2, waits⟩, ⟨20, 6, serial.toNat⟩]
  | .openSession channel claims remaining => [⟨8, 1, 1⟩, ⟨9, 1, channel⟩, ⟨12, 2, claims⟩, ⟨16, 4, remaining.toNat⟩]
  | .lapsedSession channel reason => [⟨8, 1, 2⟩, ⟨9, 1, channel⟩, ⟨10, 1, reason.code.toNat⟩]
  | .device freeClaims freeSessions serial now period =>
    [⟨8, 2, freeClaims⟩, ⟨10, 2, freeSessions⟩, ⟨12, 4, period.toNat⟩, ⟨16, 4, now.toNat⟩, ⟨20, 6, serial.toNat⟩]

/-- The fields of a reply written with a phase flag (R170). -/
def Reply.fields (r : Reply) (phase : Bool) : List ByteField :=
  [⟨0, 2, r.kind.code.toNat⟩, ⟨2, 2, r.tag.toNat⟩, ⟨4, 1, r.status.code.toNat⟩, ⟨5, 1, phase.toNat⟩] ++ r.body.fields

/-- The fields of a notice written with a phase flag (R168, R171). -/
def Notice.fields (n : Notice) (phase : Bool) : List ByteField :=
  ⟨5, 1, phase.toNat⟩ :: match n with
  | .contention _ claim session key held wanted queue tick =>
    [⟨0, 2, 0x0100⟩, ⟨8, 4, claim.toNat⟩, ⟨12, 2, session.toNat⟩, ⟨14, 1, held.code.toNat⟩, ⟨15, 1, wanted.code.toNat⟩,
      ⟨16, 4, tick.toNat⟩, ⟨20, 1, queue.code.toNat⟩, ⟨21, 1, key.domain.toNat⟩, ⟨24, 8, key.name.toNat⟩]
  | .sessionLapsed _ session reason tick withdrawn =>
    [⟨0, 2, 0x0101⟩, ⟨8, 4, withdrawn⟩, ⟨12, 2, session.toNat⟩, ⟨14, 1, reason.code.toNat⟩, ⟨16, 4, tick.toNat⟩]
  | .channelFaulted channel cause tick =>
    [⟨0, 2, 0x0102⟩, ⟨8, 1, channel⟩, ⟨9, 1, cause.code.toNat⟩, ⟨16, 4, tick.toNat⟩]

/-- Every kind, status and coded field has the code that R167 and R168 give it. -/
def CodesAsGiven : Prop :=
  [Kind.openSession, .closeSession, .keepalive, .acquire, .convert, .release, .cancel, .checkFence].map Kind.code
    = [1, 2, 3, 4, 5, 6, 7, 8] ∧
  [Kind.setupChannel, .teardownChannel, .restartChannel, .setAccess, .setLimits, .setTick, .evictSession, .discardResource,
    .inspectResource, .inspectSession, .inspectDevice, .unknown].map Kind.code
    = [0x20, 0x21, 0x22, 0x23, 0x24, 0x25, 0x26, 0x27, 0x28, 0x29, 0x2A, 0] ∧
  [Status.ok, .granted, .conflict, .timedOut, .cancelled, .tooLate, .notClaimed, .lapsed, .withdrawn].map Status.code
    = [0, 1, 2, 3, 4, 5, 6, 7, 8] ∧
  [Status.badRequest, .badHandle, .notPermitted, .alreadyClaimed, .quota, .noRecord, .noSlot, .badConversion,
    .conversionDeadlock, .inProgress, .wrongState, .badValue, .serialExhausted, .busy, .notFound].map Status.code
    = [0x10, 0x11, 0x12, 0x13, 0x14, 0x15, 0x16, 0x17, 0x18, 0x19, 0x1A, 0x1B, 0x1C, 0x1D, 0x1E] ∧
  [Mode.shared, .update, .exclusive].map Mode.code = [1, 2, 3] ∧ [Level.none, .check, .full].map Level.code = [0, 1, 2] ∧
  (∀ v, [ValueBlock.absent, .valid v, .invalid v].map ValueBlock.code = [0, 1, 2]) ∧
  [WayState.free, .active, .dormant].map WayState.code = [0, 1, 2] ∧
  [LapseReason.expired, .evicted].map LapseReason.code = [1, 2] ∧ [Verdict.current, .stale].map Verdict.code = [1, 2] ∧
  [Reason.none, .absent, .noHolder, .superseded].map Reason.code = [0, 1, 2, 3] ∧
  [QueueKind.convert, .wait].map QueueKind.code = [1, 2] ∧
  [ChanState.off, .active, .faulted, .closing].map ChanState.code = [0, 1, 2, 3] ∧
  [Cause.none, .fetchError, .writeError, .badReqIndex, .badRplIndex, .badSetup].map Cause.code = [0, 1, 2, 3, 4, 5]

/-! ### Invariants: what holds between commands -/

/-- The four indices of a channel lie within its rings (R119). -/
def Channel.indicesInRange (c : Channel) : Prop :=
  c.reqProd < c.reqSize ∧ c.reqCons < c.reqSize ∧ c.rplProd < c.rplSize ∧ c.rplCons < c.rplSize

/-- A channel that is not ACTIVE is quiet: an OFF one is at its device reset values (R139), and one in any state but
ACTIVE owes nothing, has no pending notice, and has no fetched entry left to take (R136, R139, R142). -/
structure ChannelsQuiet (s : State) : Prop where
  off : ∀ n, (s.chan n).state = .off → s.chan n = Channel.reset
  owed : ∀ n, (s.chan n).state ≠ .active → (s.chan n).owed = 0
  notices : ∀ n, (s.chan n).state ≠ .active → (s.chan n).notices = []
  entries : ∀ n rest, (s.chan n).fetch = .taking rest → (s.chan n).state = .active

/-- The rings of a channel that has them are valid (R153, R157), and while it is ACTIVE its indices lie in them (R119). -/
structure RingsKept (s : State) : Prop where
  configured : ∀ n, (s.chan n).state = .active ∨ (n ≠ 0 ∧ (s.chan n).state ≠ .off) →
    ∃ r, (s.chan n).rings = some r ∧ r.valid = true
  indices : ∀ n, (s.chan n).state = .active → (s.chan n).indicesInRange

/-- The Resource Table is in order: a key stands in a way of its own bucket (R3) and in one way only (R4), a dormant order
lists exactly the DORMANT ways of its bucket, each once (R16), and a DORMANT way has no claim and a value (R14, R15). -/
structure ResourcesKept (s : State) : Prop where
  home : ∀ w, s.way w ≠ .free → bucketOf w = (s.entry w).key.bucket
  unique : ∀ w w', s.way w ≠ .free → s.way w' ≠ .free → (s.entry w).key = (s.entry w').key → w = w'
  order : ∀ b w, w ∈ s.dormantOrder b ↔ bucketOf w = b ∧ (s.way w).wayState = .dormant
  once : ∀ b, (s.dormantOrder b).Nodup
  dormant : ∀ w e, s.way w = .dormant e →
    e.holders = [] ∧ e.converts = [] ∧ e.waits = [] ∧ e.value ≠ .absent

/-- Every claim in use is placed by its state (R24, R80): it stands in the list of its OPEN session and, at an ACTIVE way, in the
holder list if it holds a mode, in the convert queue if it is CONVERTING and in the wait queue if it is WAITING, in no
list twice; those lists hold no other claims; a session has at most one claim on a resource; and the records are those of
the pool. -/
structure ClaimsPlaced (s : State) : Prop where
  owner : ∀ c b, s.claimAt c = some b → ∃ o, (s.session b.session).state = .opened o ∧ c ∈ o.claims
  place : ∀ c b, s.claimAt c = some b → ∃ e, s.way b.way = .active e ∧ (c ∈ e.holders ↔ b.state.heldMode ≠ none) ∧
    (c ∈ e.converts ↔ b.state.heldMode ≠ none ∧ b.state.wantedMode ≠ none) ∧ (c ∈ e.waits ↔ b.state.heldMode = none)
  owned : ∀ i o c, (s.session i).state = .opened o → c ∈ o.claims → ∃ b, s.claimAt c = some b ∧ b.session = i
  listed : ∀ w c, c ∈ (s.entry w).holders ∨ c ∈ (s.entry w).converts ∨ c ∈ (s.entry w).waits →
    ∃ b, s.claimAt c = some b ∧ b.way = w
  ownedOnce : ∀ i o, (s.session i).state = .opened o → o.claims.Nodup
  listedOnce : ∀ w, (s.entry w).holders.Nodup ∧ (s.entry w).converts.Nodup ∧ (s.entry w).waits.Nodup
  single : ∀ c c' b b', s.claimAt c = some b → s.claimAt c' = some b' → b.session = b'.session → b.way = b'.way → c = c'
  pool : ∀ c b, s.claimAt c = some b → c < 32768

/-- The counts of the channels are within their limits, an OFF or CLOSING channel has no session (R77, R91), and the last
granted channel is one of the sixteen (R125). -/
structure CountsKept (s : State) : Prop where
  sessions : ∀ n, s.sessionCount n ≤ (s.chan n).sessionLimit
  claims : ∀ n, s.claimCount n ≤ (s.chan n).claimLimit
  without : ∀ n, (s.chan n).state = .off ∨ (s.chan n).state = .closing → s.sessionCount n = 0
  granted : s.lastGranted < 16

/-- The entries of a channel's fetch that are still to be taken: those of the DMA read in flight, or those it brought (R126,
R127). -/
def Channel.fetched (c : Channel) : Nat :=
  match c.fetch with
  | .idle => 0
  | .reading _ count => count
  | .taking rest => rest.length

/-- The reply entries of channel `n` that are reserved: one for each WAITING or CONVERTING claim of its sessions, on channel 0
one for each pending teardown reply, and on an ACTIVE channel one for each entry of its fetch still to be taken (R25, R126,
R127, R158). -/
def State.reserved (s : State) (n : Nat) : Nat :=
  s.claims.count (fun r => match r.claim with
    | some b => b.state.wait.isSome && (s.session b.session).channel == some n
    | none => false)
  + (if n = 0 then s.teardownReplies.count (·.isSome) else 0)
  + (if (s.chan n).state = .active then (s.chan n).fetched else 0)

/-- The reservations are in order: the owed count is the number of reply entries reserved (R25), and on an ACTIVE channel it fits,
with the entries written and not consumed, in the reply ring size less one (R129); no session is of channel 0 (R76), and
only a CLOSING channel has a pending teardown reply (R158). -/
structure ReservationsKept (s : State) : Prop where
  owed : ∀ n, (s.chan n).owed = s.reserved n
  within : ∀ n, let x := s.chan n
    x.state = .active → ((x.rplProd : Int) - x.rplCons) % x.rplSize + x.writes.length + x.owed ≤ (x.rplSize : Int) - 1
  client : ∀ i, (s.session i).channel ≠ some 0
  teardown : ∀ n, s.teardownReplies.get n ≠ none → (s.chan n).state = .closing

/-- The leases are in order: a claim in a list of a way stands at that way (R24), every holder holds a mode, any two holders
of a resource are compatible (R32), and the holder of X carries its entry's fence serial (R109). -/
structure LeasesKept (s : State) : Prop where
  holder : ∀ w c, c ∈ (s.entry w).holders → ∃ b, s.claimAt c = some b ∧ b.way = w ∧ b.state.heldMode ≠ none
  converting : ∀ w c, c ∈ (s.entry w).converts → ∃ b, s.claimAt c = some b ∧ b.way = w
  waiting : ∀ w c, c ∈ (s.entry w).waits → ∃ b, s.claimAt c = some b ∧ b.way = w
  dormant : ∀ w e, s.way w = .dormant e → e.holders = [] ∧ e.converts = [] ∧ e.waits = []
  compatible : ∀ w c c' m m', c ∈ (s.entry w).holders → c' ∈ (s.entry w).holders → c ≠ c' →
    s.heldMode c = some m → s.heldMode c' = some m' → m.compatible m' = true
  serial : ∀ w c b, c ∈ (s.entry w).holders → s.claimAt c = some b → b.state.heldMode = some .exclusive →
    b.serial = some (s.entry w).serial

/-- A serial lies below the next one to be drawn; every serial does once the counter is exhausted (R106, R107). -/
def State.drawn (s : State) (n : Serial) : Prop := ∀ m, s.nextSerial = some m → n < m

/-- The serials are in order: 0 is never the next, every recorded serial has been drawn, and no two claims carry the same
one (R106, R108). -/
structure SerialsKept (s : State) : Prop where
  zero : s.nextSerial ≠ some 0
  claims : ∀ c b n, s.claimAt c = some b → b.serial = some n → s.drawn n
  entries : ∀ w, s.drawn (s.entry w).serial
  distinct : ∀ c c' b b' n, s.claimAt c = some b → s.claimAt c' = some b' → b.serial = some n → b'.serial = some n →
    c = c'

/-- How far the Fence Counter has come: its next serial, or 2^48 when it is exhausted (R106, R107). -/
def State.counter (s : State) : Nat :=
  match s.nextSerial with
  | some n => n.toNat
  | none => 2 ^ 48

/-- No session record has the handle that names no session (R75). -/
def HandlesKept (s : State) : Prop := ∀ i < 512, s.sessionHandle i ≠ noSession

/-- The tick period in force and the requested one are from 10 to 1,000,000 microseconds (R95, R96). -/
def PeriodsKept (s : State) : Prop :=
  10 ≤ s.period.toNat ∧ s.period.toNat ≤ 1000000 ∧
    ∀ p, s.requestedPeriod = some p → 10 ≤ p.toNat ∧ p.toNat ≤ 1000000

/-- What a command leaves of a session record that it cannot reach: everything, but that claims may leave the claim list of
an OPEN session, the others keeping their order (R80), and that the lapse-notice pending flag of a LAPSED one may change. -/
def SessionRec.untouched (r r' : SessionRec) : Prop :=
  r'.tag = r.tag ∧
    match r.state with
    | .free => r'.state = .free
    | .opened o => ∃ l, l.Sublist o.claims ∧ r'.state = .opened { o with claims := l }
    | .lapsed l => ∃ b, r'.state = .lapsed { l with noticePending := b }

/-- What the lapse of the OPEN session `i`, whose fields are `o`, leaves (R82): the record is LAPSED with its tag, channel and
reason, its claims are freed and no claim comes into use, every other session keeps all but its claim list and pending
flag, and time, periods, registers and the states of the channels stay. -/
structure State.lapsedTo (s t : State) (i : Nat) (o : OpenSession) (reason : LapseReason) : Prop where
  record : ∃ b, t.session i = ⟨(s.session i).tag, .lapsed ⟨o.channel, reason, b⟩⟩
  withdrawn : ∀ c ∈ o.claims, t.claimAt c = none
  none_new : ∀ c, s.claimAt c = none → t.claimAt c = none
  others : ∀ j, j ≠ i → (s.session j).untouched (t.session j)
  frame : s.sameFrame t

/-- An index that an RPL_CONS write may store (R134): below the ring size, and from the old index up to RPL_PROD. -/
def Channel.mayConsume (c : Channel) (index : Nat) : Prop :=
  index < c.rplSize ∧ ((index : Int) - c.rplCons) % c.rplSize ≤ ((c.rplProd : Int) - c.rplCons) % c.rplSize

/-- The events that put an ACTIVE channel `ch` into FAULTED, with their causes (R120, R122, R128, R133, R134). -/
def State.faultEvent (s : State) (c : Instr) (ch : Fin 16) (cause : Cause) : Prop :=
  (∃ value, c = .reqProdWrite ch value ∧ s.ready = true ∧ (s.chan ch).reqSize ≤ value.toNat % 2 ^ 16 ∧
    cause = .badReqIndex) ∨
  (∃ value, c = .rplConsWrite ch value ∧ s.ready = true ∧ ¬(s.chan ch).mayConsume (value.toNat % 2 ^ 16) ∧
    cause = .badRplIndex) ∨
  (c = .fetchError ch ∧ (∃ start count, (s.chan ch).fetch = .reading start count) ∧ cause = .fetchError) ∨
  (c = .writeError ch ∧ (s.chan ch).writes ≠ [] ∧ cause = .writeError)

/-- The record of an ACTIVE channel that enters FAULTED at command `c` (R128, R133, R136): the cause is recorded, nothing is
owed, no notice is pending, the armed flag is clear, entries fetched and not taken are discarded, a failed fetch or write is
in flight no more, and the indices, the configuration and all else stay. -/
def Channel.faultedBy (x : Channel) (c : Instr) (cause : Cause) : Channel :=
  { x with
    state := .faulted
    cause := cause
    owed := 0
    notices := []
    armed := false
    fetch := match cause, x.fetch with
      | .fetchError, _ => .idle
      | _, .taking _ => .idle
      | _, f => f
    writes := match c with
      | .writeError _ => x.writes.tail
      | _ => x.writes }

/-- What the fault of a client channel `ch` at command `c` leaves beside its record (R136): the waits of its sessions' claims
are withdrawn, no claim comes into use, every session keeps all but its claim list and pending flag, the armed channel sends
its interrupt, and time, periods, registers and the states of the other channels stay. -/
structure State.faultedTo (s t : State) (ch : Nat) (c : Instr) (cause : Cause) : Prop where
  record : t.chan ch = (s.chan ch).faultedBy c cause
  waiting : ∀ k b m w, s.claimAt k = some b → (∃ o, (s.session b.session).state = .opened o ∧ o.channel = ch ∧
    k ∈ o.claims) → b.state = .waiting m w → t.claimAt k = none
  converting : ∀ k b x m w, s.claimAt k = some b → (∃ o, (s.session b.session).state = .opened o ∧ o.channel = ch ∧
    k ∈ o.claims) → b.state = .converting x m w → t.claimAt k = some { b with state := .held x, noticed := false }
  none_new : ∀ k, s.claimAt k = none → t.claimAt k = none
  sessions : ∀ i, (s.session i).untouched (t.session i)
  interrupts : ∀ r, (s.chan ch).rings = some r →
    t.interrupts = s.interrupts ++ if (s.chan ch).armed then [r.vector] else []
  states : ∀ n, n ≠ ch → (t.chan n).state = (s.chan n).state
  time : t.ready = s.ready ∧ t.now = s.now ∧ t.period = s.period ∧ t.requestedPeriod = s.requestedPeriod ∧
    t.mgmt = s.mgmt ∧ t.pending = s.pending

/-- The end of a teardown of channel `ch` (R139, R158, R159): the record takes its device reset values, and the pending reply
OK, if it has survived, is handed to channel 0. -/
def State.tornDown (s : State) (ch : Nat) : State :=
  match s.teardownReplies.get ch with
  | some tag =>
    { s.setChan ch Channel.reset with teardownReplies := s.teardownReplies.set ch none }.hand 0
      ⟨.teardownChannel, tag, .ok, .header⟩
  | none => s.setChan ch Channel.reset

/-- The management ring registers hold settings that an ENABLE or a RESTART accepts (R153). -/
def MgmtRegs.accepted (m : MgmtRegs) : Bool :=
  sizeInRange m.reqSize.toNat && sizeInRange m.rplSize.toNat && m.reqBase.toNat % 64 == 0 && m.rplBase.toNat % 64 == 0
    && decide (m.vector.toNat ≤ 15)

/-- An armed deadline at a tick that makes now `now` (R94). -/
def Deadline.after (now : Tick) (d : Deadline) : Deadline := ⟨d.tick, d.due || decide (d.tick = now)⟩

end Machine

end Sys2Proof
end

