-- ==== Sys2Proof/Certificates/Slice0/Obligations.lean ====
section
/-! DEFINITION. The statements about the LC16, for the provers. An `exec … = .next …` gives the whole next state, so it says
the frame as well: what its right side does not name is as it was. `State.finish` is the end of an event at a resource entry
(R34: the grant pass, then the decision about the way), which the statements of its own section say. -/

open Sys2Proof Sys2Proof.Machine

/-! ### Steps and reset -/

/-- The command at the front of the queue is run with the queue's rest. On an empty queue the block idles, which is the
model's choice (log entry 8). -/
def Obligations.StepRunsFrontCommand : Prop :=
  (∀ (c : Instr) (s : State), step { s with pending := c :: s.pending } = exec c s) ∧
    ∀ s : State, s.pending = [] → step s = .next s

/-- What a device reset leaves (R21, R31, R92, R105, R118, R119, R125, R151): DEVICE_RESET leaves it with READY 0 from any
state, STARTUP_END with READY 1 from any state of start-up, and `State.reset` is so. STARTUP_END outside start-up is no
event, which is the model's choice (log entry 2). -/
def Obligations.ResetValues : Prop :=
  (∀ s : State, ∃ t, exec .deviceReset s = .next t ∧ t.atReset ∧ t.ready = false ∧ t.pending = s.pending) ∧
  (∀ s : State, s.ready = false →
    ∃ t, exec .startupEnd s = .next t ∧ t.atReset ∧ t.ready = true ∧ t.pending = s.pending) ∧
  (∀ s : State, s.ready = true → exec .startupEnd s = .next s) ∧
  State.reset.atReset ∧ State.reset.ready = false

/-! ### Ring entries and keys -/

/-- Ring entries. What software places for a request (R168, R169) is decoded, on the channel it is taken on, to that request,
with every field at every value. The 64 bytes of a reply (R170) and of a notice (R171) hold each field of its kind and
status at its bytes, the phase flag in bit 0 of byte 5, and zero in every other byte, every coded field with the code that
R167 and R168 give. They go to the ring base plus 64 times the position, where that is a host address (R173). -/
def Obligations.EntryRoundTrip : Prop :=
  (∀ (ch : Fin 16) (i : Instr) (e : RingEntry), i.wellFormed = true → i.requestChannel = some ch →
    encodeEntry i = some e → decodeEntry ch e = i) ∧
  (∀ (r : Reply) (phase : Bool), holdsFields (r.bytes phase) (r.fields phase)) ∧
  (∀ (n : Notice) (phase : Bool), holdsFields (n.bytes phase) (n.fields phase)) ∧ CodesAsGiven ∧
  (∀ (c : Channel) (r : Rings) (pos : Nat), c.rings = some r → r.rplBase.toNat + 64 * pos < 2 ^ 64 →
    (c.replyAddress pos).toNat = r.rplBase.toNat + 64 * pos)

/-- The bucket of a key (R2): with the domain above the name as one number, the exclusive-OR of its six slices of 12 bits;
so two keys that differ only in their domains fall in buckets that differ in bits 4 to 7 only. -/
def Obligations.BucketIndex : Prop :=
  (∀ (k : Key), k.bucket = ((List.range 6).map fun i =>
    (k.domain.toNat * 2 ^ 64 + k.name.toNat) / 2 ^ (12 * i) % 2 ^ 12).foldl (· ^^^ ·) 0 ∧ k.bucket < 4096) ∧
  (∀ (d d' : BitVec 4) (n : Name),
    (Key.bucket ⟨d, n⟩) ^^^ (Key.bucket ⟨d', n⟩) = (d ^^^ d').toNat * 16)

/-! ### Sessions -/

/-- OPEN_SESSION past its checks (R76): the lowest-numbered FREE record opens on the channel with its tag kept, the fields of
the request, a deadline one period ahead and no claim, and the reply OK carries its handle and deadline. With the channel at
its session limit the reply is QUOTA; with no FREE record it is NO_RECORD. Nothing else changes. -/
def Obligations.OpenSessionOpens : Prop :=
  ∀ (s : State) (ch : Fin 16) (tag : ReqTag) (period : BitVec 16) (notices : Bool),
    s.nextRequest ch = some (.openSession ch tag period notices) → ch ≠ 0 → period ≠ 0 →
    (s.sessionCount ch < (s.chan ch).sessionLimit →
      (∀ i < 512, (s.session i).state = .free → (∀ j < i, (s.session j).state ≠ .free) →
        exec (.openSession ch tag period notices) s = .next
          ((s.setSession i ⟨(s.session i).tag,
              .opened ⟨ch, period, ⟨s.now + period.setWidth 32, false⟩, notices, []⟩⟩).answered ch
            ⟨.openSession, tag, .ok,
              .sessionTick (sessionHandle i (s.session i).tag) (s.now + period.setWidth 32)⟩)) ∧
      ((∀ i < 512, (s.session i).state ≠ .free) →
        exec (.openSession ch tag period notices) s = .next (s.answered ch ⟨.openSession, tag, .noRecord, .header⟩))) ∧
    ((s.chan ch).sessionLimit ≤ s.sessionCount ch →
      exec (.openSession ch tag period notices) s = .next (s.answered ch ⟨.openSession, tag, .quota, .header⟩))

/-- KEEPALIVE of an OPEN session (R78, R79): its deadline is armed again at now plus its period, and the reply OK carries its
handle and the new deadline. Nothing else changes. -/
def Obligations.KeepaliveRenews : Prop :=
  ∀ (s : State) (ch : Fin 16) (tag : ReqTag) (h : SessionHandle) (i : Nat) (o : OpenSession),
    s.nextRequest ch = some (.keepalive ch tag h) → ch ≠ 0 → s.namesOpen ch h i o →
    exec (.keepalive ch tag h) s = .next
      ((s.setSession i ⟨(s.session i).tag, .opened (o.renewedAt s.now)⟩).answered ch
        ⟨.keepalive, tag, .ok, .sessionTick h (s.now + o.period.setWidth 32)⟩)

/-- CLOSE_SESSION (R86, R87). Of an OPEN session: every claim of its list is freed, the record is freed with its tag advanced,
the VALID value of a sole X holder stays as it was, the reply OK is the last entry written on the channel, no claim comes
into use, every other session keeps all but that claims may leave its list and its pending flag, and time, periods,
registers and the states of the channels stay. A session with one claim leaves exactly that claim's part: the claim freed,
the deferred ACQUIRE of a WAITING and CONVERT of a CONVERTING one answered WITHDRAWN with its pending tag, the end of the
event at its entry, the record freed, and the OK. Of a LAPSED session: its SESSION_LAPSED notice leaves the channel's list,
the record is freed with its tag advanced, the reply is OK, and nothing else changes. -/
def Obligations.CloseSessionFrees : Prop :=
  (∀ (s : State) (ch : Fin 16) (tag : ReqTag) (h : SessionHandle) (i : Nat) (o : OpenSession),
      s.nextRequest ch = some (.closeSession ch tag h) → ch ≠ 0 → s.namesOpen ch h i o →
      ∃ t, exec (.closeSession ch tag h) s = .next t ∧ t.session i = SessionRec.freed i (s.session i).tag ∧
        (∀ c ∈ o.claims, t.claimAt c = none) ∧ (∀ c, s.claimAt c = none → t.claimAt c = none) ∧
        (∀ c w e v, s.soleExclusive o.claims c w e v → t.way w = .dormant { e with holders := [] }) ∧
        (t.chan ch).answeredLast ⟨.closeSession, tag, .ok, .header⟩ ∧
        (∀ j, j ≠ i → (s.session j).untouched (t.session j)) ∧ s.sameFrame t ∧
        (∀ c b e, s.onlyClaim i o c b e →
          t = ((s.popRequest ch).closedAlone i o c b e).hand ch ⟨.closeSession, tag, .ok, .header⟩)) ∧
  (∀ (s : State) (ch : Fin 16) (tag : ReqTag) (i : Nat) (l : LapsedSession),
      s.nextRequest ch = some (.closeSession ch tag (sessionHandle i (s.session i).tag)) → ch ≠ 0 → i < 512 →
      sessionHandle i (s.session i).tag ≠ noSession → (s.session i).state = .lapsed l → l.channel = ch →
      exec (.closeSession ch tag (sessionHandle i (s.session i).tag)) s = .next
        (((s.setChan ch { s.chan ch with notices := (s.chan ch).notices.filter fun n => !n.lapseOf i }).setSession i
            (SessionRec.freed i (s.session i).tag)).answered ch ⟨.closeSession, tag, .ok, .header⟩))

/-- EVICT_SESSION of an OPEN session (R84, R82): the session lapses with reason EVICTED and the reply OK is the last entry
written on channel 0. A session with one claim leaves exactly that claim's part: the claim freed, an X holder's value
invalidated, the deferred ACQUIRE of a WAITING and CONVERT of a CONVERTING one answered LAPSED with its pending tag, the end
of the event at its entry, the SESSION_LAPSED notice, and the OK. -/
def Obligations.EvictSessionLapses : Prop :=
  ∀ (s : State) (tag : ReqTag) (h : SessionHandle) (ch i : Nat) (o : OpenSession),
    s.nextRequest 0 = some (.evictSession 0 tag h) → s.namesOpen ch h i o →
    ∃ t, exec (.evictSession 0 tag h) s = .next t ∧ s.lapsedTo t i o .evicted ∧
      (t.chan 0).answeredLast ⟨.evictSession, tag, .ok, .header⟩ ∧
      (∀ c b e, s.onlyClaim i o c b e →
        t = ((s.popRequest 0).lapsedAlone i o c b e .evicted).hand 0 ⟨.evictSession, tag, .ok, .header⟩)

/-- KEEPALIVE_EXPIRY (R81, R82, R101): an OPEN session whose deadline is due lapses with reason EXPIRED; where its claim was the
one holder of X at an entry with a VALID value and no queue, the entry is DORMANT with that value INVALID. A session with one
claim leaves exactly that claim's part: the claim freed, an X holder's value invalidated, the deferred ACQUIRE of a WAITING
and CONVERT of a CONVERTING one answered LAPSED with its pending tag, the end of the event at its entry, and the
SESSION_LAPSED notice. A deadline that is not due is not delivered, and nothing changes, which is how the model takes such a
command (log entry 2). -/
def Obligations.KeepaliveExpiryLapses : Prop :=
  ∀ (s : State) (i : Fin 512),
    (∀ o, (s.session i).state = .opened o → o.deadline.due = true →
      ∃ t, exec (.keepaliveExpiry i) s = .next t ∧ s.lapsedTo t i o .expired ∧
        (∀ c w e v, s.soleExclusive o.claims c w e v →
          t.way w = .dormant { e with holders := [], value := .invalid v }) ∧
        (∀ c b e, s.onlyClaim i o c b e → t = s.lapsedAlone i o c b e .expired)) ∧
    ((∀ o, (s.session i).state = .opened o → o.deadline.due = false) → exec (.keepaliveExpiry i) s = .next s)

/-- The SESSION_LAPSED notice (R82, R83, R142) of a session without claims that expires: on an ACTIVE channel it is written at
once when none is pending and an unreserved slot is free, and else joins the tail of the channel's list with the
session's pending flag set; on a channel that is not ACTIVE none is raised. Nothing else changes but the record, which is
LAPSED. -/
def Obligations.SessionLapsedNotice : Prop :=
  ∀ (s : State) (i : Fin 512) (o : OpenSession), (s.session i).state = .opened o → o.deadline.due = true → o.claims = [] →
    let notice : Notice := .sessionLapsed i (s.sessionHandle i) .expired s.now 0
    let lapsed (b : Bool) : State := s.setSession i ⟨(s.session i).tag, .lapsed ⟨o.channel, .expired, b⟩⟩
    let c := s.chan o.channel
    (c.state = .active → c.notices = [] → 1 ≤ c.unreserved →
      exec (.keepaliveExpiry i) s = .next ((lapsed false).setChan o.channel (c.issue notice.bytes))) ∧
    (c.state = .active → c.notices ≠ [] ∨ c.unreserved = 0 →
      exec (.keepaliveExpiry i) s =
        .next ((lapsed true).setChan o.channel { c with notices := c.notices ++ [notice] })) ∧
    (c.state ≠ .active → exec (.keepaliveExpiry i) s = .next (lapsed false))

/-! ### ACQUIRE -/

/-- ACQUIRE of an absent key (R10, R11): the entry is made in the lowest-numbered FREE way of the key's bucket, or in the way
evicted from the head of the dormant order when no way is FREE, and the claim is granted at arrival in a record that was
free. Nothing else changes. -/
def Obligations.AcquireCreates : Prop :=
  ∀ (s : State) (ch : Fin 16) (tag : ReqTag) (h : SessionHandle) (i : Nat) (o : OpenSession) (k : Key) (m : Mode)
    (limit : BitVec 16),
    s.nextRequest ch = some (.acquire ch tag h (k.domain.setWidth 8) m.code limit k.name) →
    s.AcquirePasses ch h i o k m → (∀ w ∈ bucketWays k.bucket, s.holdsKey k w = false) →
    (∀ w ∈ bucketWays k.bucket, s.way w = .free → (∀ w' ∈ bucketWays k.bucket, w' < w → s.way w' ≠ .free) →
      ∃ c < 32768, s.claimAt c = none ∧ exec (.acquire ch tag h (k.domain.setWidth 8) m.code limit k.name) s =
        .next (s.withGrant ch tag i o c w ⟨k, [], [], [], 0, .absent⟩ m)) ∧
    (∀ w rest, (∀ w' ∈ bucketWays k.bucket, s.way w' ≠ .free) → s.dormantOrder k.bucket = w :: rest → w ∉ rest →
      bucketOf w = k.bucket →
      ∃ c < 32768, s.claimAt c = none ∧ exec (.acquire ch tag h (k.domain.setWidth 8) m.code limit k.name) s =
        .next ((s.setDormant k.bucket rest).withGrant ch tag i o c w ⟨k, [], [], [], 0, .absent⟩ m))

/-- ACQUIRE of a key in the table, granted at arrival (R13, R33, R50): at an ACTIVE entry with empty queues whose holders all
hold modes compatible with the request's, or at a DORMANT entry, which is reactivated and leaves the dormant order whatever
the mode, with its serial and value kept. -/
def Obligations.AcquireGrantsAtEntry : Prop :=
  ∀ (s : State) (ch : Fin 16) (tag : ReqTag) (h : SessionHandle) (i : Nat) (o : OpenSession) (k : Key) (m : Mode)
    (limit : BitVec 16) (w : Nat) (e : Entry),
    s.nextRequest ch = some (.acquire ch tag h (k.domain.setWidth 8) m.code limit k.name) →
    s.AcquirePasses ch h i o k m → s.lookup k = some w → e.converts = [] → e.waits = [] →
    (s.way w = .active e → (∀ c ∈ e.holders, ∀ x, s.heldMode c = some x → x.compatible m = true) →
      ∃ c < 32768, s.claimAt c = none ∧ exec (.acquire ch tag h (k.domain.setWidth 8) m.code limit k.name) s =
        .next (s.withGrant ch tag i o c w e m)) ∧
    (s.way w = .dormant e → e.holders = [] →
      ∃ c < 32768, s.claimAt c = none ∧ exec (.acquire ch tag h (k.domain.setWidth 8) m.code limit k.name) s =
        .next ((s.setDormant (bucketOf w) ((s.dormantOrder (bucketOf w)).filter (· != w))).withGrant ch tag i o c w e m))

/-- ACQUIRE not grantable at arrival (R33, R51, R52): at an ACTIVE entry with a claim in a queue, or with a holder in an
incompatible mode. With wait limit 0 it is refused CONFLICT with the entry and its lists as they were; with another it
joins the tail of the wait queue, WAITING with its request tag and its wait deadline, and no reply is given. The event then
ends at the entry (`State.finish`: the grant pass and the decision about the way, R34). -/
def Obligations.AcquireNotGrantable : Prop :=
  ∀ (s : State) (ch : Fin 16) (tag : ReqTag) (h : SessionHandle) (i : Nat) (o : OpenSession) (k : Key) (m : Mode)
    (limit : BitVec 16) (w : Nat) (e : Entry),
    s.nextRequest ch = some (.acquire ch tag h (k.domain.setWidth 8) m.code limit k.name) →
    s.AcquirePasses ch h i o k m → s.lookup k = some w → s.way w = .active e →
    (e.converts ≠ [] ∨ e.waits ≠ [] ∨ ∃ d ∈ e.holders, ∃ x, s.heldMode d = some x ∧ x.compatible m = false) →
    (limit = 0 → exec (.acquire ch tag h (k.domain.setWidth 8) m.code limit k.name) s =
      .next (((s.renewed i o).answered ch ⟨.acquire, tag, .conflict, .header⟩).finish w)) ∧
    (limit ≠ 0 → ∃ c < 32768, s.claimAt c = none ∧
      exec (.acquire ch tag h (k.domain.setWidth 8) m.code limit k.name) s =
        .next (({ s.withNewClaim i o c ⟨i, w, .waiting m ⟨tag, s.waitUntil limit⟩, none, false⟩ with
          ways := s.ways.set w (.active { e with waits := e.waits ++ [c] }) }.popRequest ch).finish w))

/-- ACQUIRE past the handle check that a check of its kind refuses (R49, R12), each check in its place: no FULL access
NOT_PERMITTED, a claim of the session on the key ALREADY_CLAIMED, the claim limit QUOTA, no free record NO_RECORD, X with the
counter exhausted SERIAL_EXHAUSTED, an absent key in a bucket of four ACTIVE ways NO_SLOT. The session is renewed, and
nothing else changes. -/
def Obligations.AcquireRefused : Prop :=
  ∀ (s : State) (ch : Fin 16) (tag : ReqTag) (h : SessionHandle) (i : Nat) (o : OpenSession) (k : Key) (m : Mode)
    (limit : BitVec 16),
    s.nextRequest ch = some (.acquire ch tag h (k.domain.setWidth 8) m.code limit k.name) → ch ≠ 0 →
    s.namesOpen ch h i o →
    let refused (st : Status) : Prop := exec (.acquire ch tag h (k.domain.setWidth 8) m.code limit k.name) s = .next
      ((s.renewed i o).answered ch ⟨.acquire, tag, st, .header⟩)
    ((s.chan ch).access.get k.domain.toNat ≠ .full → refused .notPermitted) ∧
    ((s.chan ch).access.get k.domain.toNat = .full →
      ((∃ c ∈ o.claims, ∃ b, s.claimAt c = some b ∧ (s.entry b.way).key = k) → refused .alreadyClaimed) ∧
      ((∀ c ∈ o.claims, ∀ b, s.claimAt c = some b → (s.entry b.way).key ≠ k) →
        ((s.chan ch).claimLimit ≤ s.claimCount ch → refused .quota) ∧
        (s.claimCount ch < (s.chan ch).claimLimit →
          (s.freeClaims = 0 → refused .noRecord) ∧
          (s.freeClaims ≠ 0 →
            (m = .exclusive → s.nextSerial = none → refused .serialExhausted) ∧
            ((m = .exclusive → s.nextSerial ≠ none) →
              (∀ w ∈ bucketWays k.bucket, s.holdsKey k w = false ∧ (s.way w).wayState = .active) →
              s.dormantOrder k.bucket = [] → refused .noSlot)))))

/-! ### CONVERT, RELEASE, CANCEL and CHECK_FENCE -/

/-- A downgrade (R54, R56, R62): X to U, X to S or U to S, whatever the wait limit. The claim is HELD in the new mode at its
place, its noticed flag and a pending CONTENTION notice for it go, its serial and the entry's stay; from X, a value replaces
the entry's and makes it VALID, and invalidate makes a VALID value INVALID. The reply OK carries the handle and the new mode,
and the event then ends at the entry; that the reply goes before those of the grant pass is the model's choice (log entry
6). -/
def Obligations.ConvertDowngrades : Prop :=
  ∀ (s : State) (ch : Fin 16) (tag : ReqTag) (h : ClaimHandle) (c : Nat) (b : Claim) (o : OpenSession) (held m : Mode)
    (present invalidate : Bool) (limit : BitVec 16) (value : ValueWord) (e : Entry),
    s.nextRequest ch = some (.convert ch tag h m.code present invalidate limit value) → ch ≠ 0 →
    s.namesClaim ch h c b o → b.state = .held held →
    (held = .exclusive ∧ m ≠ .exclusive) ∨ (held = .update ∧ m = .shared ∧ present = false ∧ invalidate = false) →
    ¬(present = true ∧ invalidate = true) → s.way b.way = .active e →
    exec (.convert ch tag h m.code present invalidate limit value) s = .next
      (({ (s.renewed b.session o).dropNotices ch (Notice.contentionOf c) with
          claims := s.claims.set c ⟨(s.claim c).tag, some { b with state := .held m, noticed := false }⟩
          ways := s.ways.set b.way (.active { e with
            value := if present then .valid value else if invalidate then e.value.invalidated else e.value }) }.answered ch
        ⟨.convert, tag, .ok, .claimMode h (some m)⟩).finish b.way)

/-- An upgrade that passes its checks (R33, R57), S to U or U to X, with no conversion of the other kind pending. Grantable,
it is granted: HELD in the new mode at its place, with a serial drawn for X and the GRANTED reply. Not grantable, with wait
limit 0 it is refused CONFLICT, the claim as it was; with another it joins the tail of the convert queue, CONVERTING with its
request tag and deadline, and no reply is given. The event then ends at the entry. -/
def Obligations.ConvertUpgrades : Prop :=
  ∀ (s : State) (ch : Fin 16) (tag : ReqTag) (h : ClaimHandle) (c : Nat) (b : Claim) (o : OpenSession) (held m : Mode)
    (limit : BitVec 16) (value : ValueWord) (e : Entry),
    s.nextRequest ch = some (.convert ch tag h m.code false false limit value) → ch ≠ 0 →
    s.namesClaim ch h c b o → b.state = .held held →
    (held = .shared ∧ m = .update) ∨ (held = .update ∧ m = .exclusive) →
    s.way b.way = .active e → (s.chan ch).access.get e.key.domain.toNat = .full →
    (m = .exclusive → s.nextSerial ≠ none) →
    (∀ d ∈ e.converts, (m = .exclusive → s.wantedMode d ≠ some .update) ∧
      (m = .update → s.wantedMode d ≠ some .exclusive)) →
    (e.converts = [] → (∀ d ∈ e.holders, d ≠ c → ∀ x, s.heldMode d = some x → x.compatible m = true) →
      exec (.convert ch tag h m.code false false limit value) s = .next
        ((((s.renewed b.session o).withRaised ch c b.way b e m).answered ch
          ⟨.convert, tag, .granted, .granted h m e.value s.now ((s.serialFor m).getD 0)⟩).finish b.way)) ∧
    (e.converts ≠ [] ∨ (∃ d ∈ e.holders, d ≠ c ∧ ∃ x, s.heldMode d = some x ∧ x.compatible m = false) →
      (limit = 0 → exec (.convert ch tag h m.code false false limit value) s = .next
        (((s.renewed b.session o).answered ch ⟨.convert, tag, .conflict, .claimMode h (some held)⟩).finish b.way)) ∧
      (limit ≠ 0 → exec (.convert ch tag h m.code false false limit value) s = .next
        (({ s.renewed b.session o with
            claims := s.claims.set c
              ⟨(s.claim c).tag, some { b with state := .converting held m ⟨tag, s.waitUntil limit⟩ }⟩
            ways := s.ways.set b.way (.active { e with converts := e.converts ++ [c] }) }.popRequest ch).finish b.way)))

/-- A U to X conversion that finds one S to U conversion `d` pending (R60): that one fails. It goes back to HELD at S and its
CONVERT is answered CONVERSION_DEADLOCK with its handle and S. Then, the failed claim still holding S, the U to X
conversion is refused CONFLICT with wait limit 0, the failure standing, and with another is the one claim of the convert
queue. The event then ends at the entry. -/
def Obligations.ConvertFailsPendingUpgrade : Prop :=
  ∀ (s : State) (ch : Fin 16) (tag : ReqTag) (h : ClaimHandle) (c : Nat) (b : Claim) (o : OpenSession) (limit : BitVec 16)
    (value : ValueWord) (e : Entry) (d : Nat) (bd : Claim) (wait : Wait),
    s.nextRequest ch = some (.convert ch tag h Mode.exclusive.code false false limit value) → ch ≠ 0 →
    s.namesClaim ch h c b o → b.state = .held .update → s.way b.way = .active e →
    (s.chan ch).access.get e.key.domain.toNat = .full → s.nextSerial ≠ none →
    e.converts = [d] → d ∈ e.holders → d ≠ c → s.claimAt d = some bd → bd.way = b.way →
    bd.state = .converting .shared .update wait →
    let failed : State := ({ s.renewed b.session o with
      claims := s.claims.set d ⟨(s.claim d).tag, some { bd with state := .held .shared }⟩
      ways := s.ways.set b.way (.active { e with converts := [] }) }.popRequest ch).handClaim d
        ⟨.convert, wait.tag, .conversionDeadlock, .claimMode (s.claimHandle d) (some .shared)⟩
    (limit = 0 → exec (.convert ch tag h Mode.exclusive.code false false limit value) s = .next
      ((failed.hand ch ⟨.convert, tag, .conflict, .claimMode h (some .update)⟩).finish b.way)) ∧
    (limit ≠ 0 → exec (.convert ch tag h Mode.exclusive.code false false limit value) s = .next
      (({ failed with
          claims := failed.claims.set c
            ⟨(s.claim c).tag, some { b with state := .converting .update .exclusive ⟨tag, s.waitUntil limit⟩ }⟩
          ways := s.ways.set b.way (.active { e with converts := [c] }) } : State).finish b.way))

/-- CONVERT past the handle check that a check refuses, each check in its place (R48, R54, R55, R59): a higher mode without
FULL access NOT_PERMITTED; a claim that is not HELD IN_PROGRESS; a pair that is no conversion BAD_CONVERSION; a flag on
anything but a downgrade from X BAD_VALUE; U to X with the counter exhausted SERIAL_EXHAUSTED; S to U beside a pending
conversion to X CONVERSION_DEADLOCK. All but the first carry the handle and the held mode, if any. The session is renewed,
and nothing else changes. -/
def Obligations.ConvertRefused : Prop :=
  ∀ (s : State) (ch : Fin 16) (tag : ReqTag) (h : ClaimHandle) (c : Nat) (b : Claim) (o : OpenSession) (m : Mode)
    (present invalidate : Bool) (limit : BitVec 16) (value : ValueWord),
    s.nextRequest ch = some (.convert ch tag h m.code present invalidate limit value) → ch ≠ 0 →
    s.namesClaim ch h c b o → ¬(present = true ∧ invalidate = true) →
    let answers (st : Status) (body : ReplyBody) : Prop :=
      exec (.convert ch tag h m.code present invalidate limit value) s =
        .next ((s.renewed b.session o).answered ch ⟨.convert, tag, st, body⟩)
    let refused (st : Status) : Prop := answers st (.claimMode h b.state.heldMode)
    let raises : Prop := ∃ x, b.state.heldMode = some x ∧ x.rank < m.rank
    let full : Prop := (s.chan ch).access.get (s.entry b.way).key.domain.toNat = .full
    (raises → ¬full → answers .notPermitted .header) ∧
    ((raises → full) →
      ((∀ x, b.state ≠ .held x) → refused .inProgress) ∧
      (∀ x, b.state = .held x →
        (x = m ∨ (x = .shared ∧ m = .exclusive) → refused .badConversion) ∧
        (x ≠ m → ¬(x = .shared ∧ m = .exclusive) →
          ((present = true ∨ invalidate = true) → x ≠ .exclusive → refused .badValue) ∧
          (present = false → invalidate = false →
            (m = .exclusive → s.nextSerial = none → refused .serialExhausted) ∧
            (m = .update → x = .shared → (∃ d ∈ (s.entry b.way).converts, s.wantedMode d = some .exclusive) →
              refused .conversionDeadlock)))))

/-- RELEASE past the handle check (R62, R63, R64). Of a HELD claim: the claim is freed, from X the flags change the value, and the
reply is OK. Of a CONVERTING claim: its CONVERT is answered CANCELLED with its handle and old mode, the claim is freed, and
the reply is OK. The event then ends at the entry. A WAITING claim is refused WRONG_STATE, and a flag on a claim that does
not hold X BAD_VALUE, the session renewed and nothing else changed. That the OK of a HELD claim's RELEASE goes before the
replies of the grant pass is the model's choice (log entry 6). -/
def Obligations.ReleaseFreesOrRefused : Prop :=
  (∀ (s : State) (ch : Fin 16) (tag : ReqTag) (h : ClaimHandle) (c : Nat) (b : Claim) (o : OpenSession)
      (present invalidate : Bool) (value : ValueWord) (e : Entry),
      s.nextRequest ch = some (.release ch tag h present invalidate value) → ch ≠ 0 → s.namesClaim ch h c b o →
      s.way b.way = .active e → ¬(present = true ∧ invalidate = true) →
      ((present = true ∨ invalidate = true) → b.state.heldMode = some .exclusive) →
      (∀ m, b.state = .held m → exec (.release ch tag h present invalidate value) s = .next
        (((s.withFreedClaim b.session (o.renewedAt s.now) c b.way { e with
            value := if present then .valid value else if invalidate then e.value.invalidated else e.value }).answered ch
          ⟨.release, tag, .ok, .header⟩).finish b.way)) ∧
      (∀ x m wait, b.state = .converting x m wait → present = false → invalidate = false →
        exec (.release ch tag h present invalidate value) s = .next
          ((((s.withFreedClaim b.session (o.renewedAt s.now) c b.way e).answered ch
              ⟨.convert, wait.tag, .cancelled, .claimMode h (some x)⟩).hand ch ⟨.release, tag, .ok, .header⟩).finish b.way))) ∧
  (∀ (s : State) (ch : Fin 16) (tag : ReqTag) (h : ClaimHandle) (c : Nat) (b : Claim) (o : OpenSession)
      (present invalidate : Bool) (value : ValueWord),
      s.nextRequest ch = some (.release ch tag h present invalidate value) → ch ≠ 0 → s.namesClaim ch h c b o →
      ¬(present = true ∧ invalidate = true) →
      let refused (st : Status) : Prop := exec (.release ch tag h present invalidate value) s =
        .next ((s.renewed b.session o).answered ch ⟨.release, tag, st, .header⟩)
      (∀ m wait, b.state = .waiting m wait → refused .wrongState) ∧
      (∀ x, b.state.heldMode = some x → x ≠ .exclusive → (present = true ∨ invalidate = true) → refused .badValue))

/-- CANCEL past the handle check (R65), for the one claim of its session at the key's entry. A WAITING claim is freed and its
ACQUIRE answered CANCELLED; a CONVERTING one leaves the convert queue, is HELD at its old mode and has its CONVERT answered
CANCELLED with its handle and old mode; the CANCEL's own OK follows. Of a HELD claim it is answered TOO_LATE with its handle
and mode, and NOT_CLAIMED when the key has no entry or its entry no claim of the session. Where the key has an entry the
event then ends at it; the session is renewed, and nothing else changes. -/
def Obligations.CancelEndsWait : Prop :=
  (∀ (s : State) (ch : Fin 16) (tag : ReqTag) (h : SessionHandle) (i : Nat) (o : OpenSession) (k : Key) (w : Nat)
      (e : Entry) (c : Nat) (b : Claim),
      s.nextRequest ch = some (.cancel ch tag h (k.domain.setWidth 8) k.name) → ch ≠ 0 → s.namesOpen ch h i o →
      s.lookup k = some w → s.way w = .active e → c ∈ e.holders ++ e.waits → s.claimAt c = some b → b.session = i →
      b.way = w → (∀ d ∈ e.holders ++ e.waits, d ≠ c → ∀ x, s.claimAt d = some x → x.session ≠ i) →
      (∀ m wait, b.state = .waiting m wait → exec (.cancel ch tag h (k.domain.setWidth 8) k.name) s = .next
        ((((s.withFreedClaim i (o.renewedAt s.now) c w e).answered ch ⟨.acquire, wait.tag, .cancelled, .header⟩).hand ch
          ⟨.cancel, tag, .ok, .header⟩).finish w)) ∧
      (∀ x m wait, b.state = .converting x m wait → exec (.cancel ch tag h (k.domain.setWidth 8) k.name) s = .next
        ((({ s.renewed i o with
            claims := s.claims.set c ⟨(s.claim c).tag, some { b with state := .held x }⟩
            ways := s.ways.set w (.active { e with converts := e.converts.filter (· != c) }) }.answered ch
              ⟨.convert, wait.tag, .cancelled, .claimMode (s.claimHandle c) (some x)⟩).hand ch
          ⟨.cancel, tag, .ok, .header⟩).finish w))) ∧
  (∀ (s : State) (ch : Fin 16) (tag : ReqTag) (h : SessionHandle) (i : Nat) (o : OpenSession) (k : Key),
      s.nextRequest ch = some (.cancel ch tag h (k.domain.setWidth 8) k.name) → ch ≠ 0 → s.namesOpen ch h i o →
      (s.lookup k = none → exec (.cancel ch tag h (k.domain.setWidth 8) k.name) s =
        .next ((s.renewed i o).answered ch ⟨.cancel, tag, .notClaimed, .header⟩)) ∧
      (∀ w, s.lookup k = some w →
        ((∀ d ∈ (s.entry w).holders ++ (s.entry w).waits, ∀ x, s.claimAt d = some x → x.session ≠ i) →
          exec (.cancel ch tag h (k.domain.setWidth 8) k.name) s =
            .next (((s.renewed i o).answered ch ⟨.cancel, tag, .notClaimed, .header⟩).finish w)) ∧
        (∀ c b m, c ∈ (s.entry w).holders → s.claimAt c = some b → b.session = i → b.state = .held m →
          (∀ d ∈ (s.entry w).holders ++ (s.entry w).waits, d ≠ c → ∀ x, s.claimAt d = some x → x.session ≠ i) →
          exec (.cancel ch tag h (k.domain.setWidth 8) k.name) s =
            .next (((s.renewed i o).answered ch
              ⟨.cancel, tag, .tooLate, .claimMode (s.claimHandle c) (some m)⟩).finish w))))

/-- CHECK_FENCE past the handle check (R111, R112), from a caller that names no session (`base` is then the state itself) or an
OPEN session (then renewed). Without CHECK or FULL access it is refused NOT_PERMITTED; else its verdict, reason and serial
are those of the entry: absent, DORMANT, ACTIVE without an X holder, or ACTIVE with one whose serial equals or differs from
the request's. Nothing else changes. -/
def Obligations.CheckFenceVerdict : Prop :=
  ∀ (s base : State) (ch : Fin 16) (tag : ReqTag) (h : SessionHandle) (k : Key) (serial : Serial),
    s.nextRequest ch = some (.checkFence ch tag h (k.domain.setWidth 8) k.name serial) → ch ≠ 0 →
    (h = noSession ∧ base = s) ∨ (∃ i o, s.namesOpen ch h i o ∧ base = s.renewed i o) →
    let answers (st : Status) (body : ReplyBody) : Prop :=
      exec (.checkFence ch tag h (k.domain.setWidth 8) k.name serial) s =
        .next (base.answered ch ⟨.checkFence, tag, st, body⟩)
    ((s.chan ch).access.get k.domain.toNat = .none → answers .notPermitted .header) ∧
    ((s.chan ch).access.get k.domain.toNat ≠ .none →
      ((∀ w ∈ bucketWays k.bucket, s.holdsKey k w = false) → answers .ok (.fence .stale .absent 0)) ∧
      (∀ w e, s.lookup k = some w →
        (s.way w = .dormant e → answers .ok (.fence .stale .noHolder e.serial)) ∧
        (s.way w = .active e →
          ((∀ c ∈ e.holders, s.heldMode c ≠ some .exclusive) → answers .ok (.fence .stale .noHolder e.serial)) ∧
          (∀ c b, c ∈ e.holders → s.claimAt c = some b → b.state = .held .exclusive →
            (∀ d ∈ e.holders, s.heldMode d = some .exclusive → d = c) →
            (b.serial = some serial → answers .ok (.fence .current .none e.serial)) ∧
            (b.serial ≠ some serial → answers .ok (.fence .stale .superseded e.serial))))))

/-! ### Requests that an early check refuses -/

/-- The first two checks of every request (R45, R46, R156, R168): on the wrong kind of channel it is refused NOT_PERMITTED, else
with a field out of range BAD_REQUEST, and so is an unknown kind on any channel. Nothing else changes. -/
def Obligations.WrongKindOrRangeRefused : Prop :=
  ∀ (s : State) (c : Instr) (ch : Fin 16), c.requestChannel = some ch → s.nextRequest ch = some c →
    let refused (st : Status) : Prop := exec c s = .next (s.answered ch ⟨c.replyKind, c.requestTag, st, .header⟩)
    ((ch = 0 ∧ c.isClientRequest = true) ∨ (ch ≠ 0 ∧ c.isManagementRequest = true) → refused .notPermitted) ∧
    ((ch ≠ 0 ∧ c.isClientRequest = true) ∨ (ch = 0 ∧ c.isManagementRequest = true) → c.inRange = false →
      refused .badRequest) ∧
    (c.isClientRequest = false → c.isManagementRequest = false → refused .badRequest)

/-- The handle check of every request that carries one (R29, R47, R75, R84, R156), the checks before it passed: a session or
claim handle that does not pass is refused BAD_HANDLE; a LAPSED session passes for CLOSE_SESSION and INSPECT_SESSION, and is
refused LAPSED for the other client requests and WRONG_STATE for EVICT_SESSION. Nothing else changes. -/
def Obligations.BadHandleRefused : Prop :=
  ∀ (s : State) (c : Instr) (ch : Fin 16), c.requestChannel = some ch → s.nextRequest ch = some c →
    (ch ≠ 0 ∧ c.isClientRequest = true) ∨ (ch = 0 ∧ c.isManagementRequest = true) → c.inRange = true →
    let refused (st : Status) : Prop := exec c s = .next (s.answered ch ⟨c.replyKind, c.requestTag, st, .header⟩)
    (∀ h, c.sessionArgument = some h →
      (¬s.knowsSession ch h → refused .badHandle) ∧
      (s.knowsSession ch h → (∃ l, (s.session (sessionIndex h)).state = .lapsed l) →
        c.replyKind ≠ .closeSession → c.replyKind ≠ .inspectSession →
        refused (if ch = 0 then .wrongState else .lapsed))) ∧
    (∀ h, c.claimArgument = some h → ¬s.knowsClaim ch h → refused .badHandle)

/-! ### The end of an event at an entry: the grant pass and the decision about the way -/

/-- The end of an event that leaves nothing to grant (R14, R15, R40, R41). With both queues empty: a holder keeps the way
as it is, and without one the way is retired when the value is ABSENT, or becomes DORMANT at the tail of its bucket's
dormant order, entry kept. With a blocked head and no holder to be told: nothing changes. -/
def Obligations.PassGrantsNothing : Prop :=
  ∀ (s : State) (w : Nat) (e : Entry), s.way w = .active e →
    (e.converts = [] → e.waits = [] →
      (e.holders ≠ [] → s.finish w = s) ∧
      (e.holders = [] → e.value = .absent → s.finish w = s.setWay w .free) ∧
      (e.holders = [] → e.value ≠ .absent →
        s.finish w = (s.setWay w (.dormant e)).setDormant (bucketOf w) (s.dormantOrder (bucketOf w) ++ [w]))) ∧
    (∀ c m, (e.converts.head? = some c ∨ (e.converts = [] ∧ e.waits.head? = some c)) → s.wantedMode c = some m →
      (m = .exclusive → s.nextSerial ≠ none) →
      (∃ d ∈ e.holders, d ≠ c ∧ ∃ x, s.heldMode d = some x ∧ x.compatible m = false) →
      (∀ d ∈ e.holders, d ≠ c → ∀ b, s.claimAt d = some b → b.noticed = true ∨ s.canBeTold b.session = false) →
      s.finish w = s)

/-- The wait queue served (R36, R37, R38, R39), with the convert queue empty. A claim alone in it that every holder admits
joins the tail of the holder list, HELD, with a serial drawn for X, and its ACQUIRE is answered GRANTED on its channel;
wanting X with the counter exhausted it is freed and its ACQUIRE answered SERIAL_EXHAUSTED. Of two that want X and one serial
left, the first is granted it, which exhausts the counter, and the second is removed by the same pass and answered
SERIAL_EXHAUSTED (R36, R38): that the pass does so behind its own draw is the model's choice between these rules and R107 and
R108 (log entry 24). -/
def Obligations.PassServesWaiter : Prop :=
  (∀ (s : State) (w : Nat) (e : Entry) (c : Nat) (b : Claim) (o : OpenSession) (m : Mode) (wait : Wait),
    s.way w = .active e → e.converts = [] → e.waits = [c] → s.claimAt c = some b → b.state = .waiting m wait →
    b.way = w → (s.session b.session).state = .opened o →
    ((m = .exclusive → s.nextSerial ≠ none) → (∀ d ∈ e.holders, ∀ x, s.heldMode d = some x → x.compatible m = true) →
      s.finish w = State.hand
        { s with
          claims := s.claims.set c ⟨(s.claim c).tag, some { b with state := .held m, serial := (s.serialFor m).or b.serial }⟩
          ways := s.ways.set w (.active { e with
            holders := e.holders ++ [c], waits := [], serial := (s.serialFor m).getD e.serial })
          nextSerial := s.counterAfter m }
        o.channel ⟨.acquire, wait.tag, .granted, .granted (s.claimHandle c) m e.value s.now ((s.serialFor m).getD 0)⟩) ∧
    (m = .exclusive → s.nextSerial = none → e.holders ≠ [] → c ∉ e.holders →
      s.finish w = (s.withFreedClaim b.session o c w e).hand o.channel ⟨.acquire, wait.tag, .serialExhausted, .header⟩)) ∧
  (∀ (s : State) (w : Nat) (e : Entry) (c d : Nat) (b bd : Claim) (o od : OpenSession) (wait waitd : Wait),
    s.way w = .active e → e.holders = [] → e.converts = [] → e.waits = [c, d] → c ≠ d →
    s.claimAt c = some b → b.state = .waiting .exclusive wait → b.way = w →
    s.claimAt d = some bd → bd.state = .waiting .exclusive waitd → bd.way = w →
    (s.session b.session).state = .opened o → o.notices = false → (s.session bd.session).state = .opened od →
    s.nextSerial = some 0xFFFFFFFFFFFF →
    let left : Entry := { e with holders := [c], waits := [d], serial := 0xFFFFFFFFFFFF }
    let granted : State := State.hand
      { s with
        claims := s.claims.set c ⟨(s.claim c).tag, some { b with state := .held .exclusive, serial := some 0xFFFFFFFFFFFF }⟩
        ways := s.ways.set w (.active left)
        nextSerial := none }
      o.channel ⟨.acquire, wait.tag, .granted, .granted (s.claimHandle c) .exclusive e.value s.now 0xFFFFFFFFFFFF⟩
    s.finish w =
      (granted.withFreedClaim bd.session od d w left).hand od.channel ⟨.acquire, waitd.tag, .serialExhausted, .header⟩)

/-- The convert queue served (R35, R37, R38, R39), with one claim in it and no waiter. Admitted by every other holder it is
HELD at its place in the mode it wanted, with a serial drawn for X, and its CONVERT is answered GRANTED; wanting X with the
counter exhausted it goes back to HELD at its old mode and its CONVERT is answered SERIAL_EXHAUSTED with its handle and
that mode. -/
def Obligations.PassServesConversion : Prop :=
  ∀ (s : State) (w : Nat) (e : Entry) (c : Nat) (b : Claim) (o : OpenSession) (x m : Mode) (wait : Wait),
    s.way w = .active e → e.converts = [c] → e.waits = [] → c ∈ e.holders → s.claimAt c = some b →
    b.state = .converting x m wait → b.way = w → (s.session b.session).state = .opened o →
    ((m = .exclusive → s.nextSerial ≠ none) →
      (∀ d ∈ e.holders, d ≠ c → ∀ y, s.heldMode d = some y → y.compatible m = true) →
      s.finish w = (s.withRaised o.channel c w b { e with converts := [] } m).hand o.channel
        ⟨.convert, wait.tag, .granted, .granted (s.claimHandle c) m e.value s.now ((s.serialFor m).getD 0)⟩) ∧
    (m = .exclusive → s.nextSerial = none →
      s.finish w = State.hand
        { s with
          claims := s.claims.set c ⟨(s.claim c).tag, some { b with state := .held x }⟩
          ways := s.ways.set w (.active { e with converts := [] }) }
        o.channel ⟨.convert, wait.tag, .serialExhausted, .claimMode (s.claimHandle c) (some x)⟩)

/-- Contention told (R41, R142, R143), to the one other holder of an entry whose wait queue, or whose convert queue, has a
blocked head: a holder with its noticed flag clear, of an OPEN session with notices enabled on an ACTIVE channel, has its
flag set and a CONTENTION notice raised; a CONVERTING head that is a holder too is not told. The notice is written at once
when none is pending and an unreserved slot is free, and else joins the tail of the channel's list. -/
def Obligations.PassTellsHolder : Prop :=
  ∀ (s : State) (w : Nat) (e : Entry) (c d : Nat) (b : Claim) (o : OpenSession) (held m : Mode) (wait : Wait)
    (queue : QueueKind) (rest : List Nat),
    s.way w = .active e → d ≠ c →
    (queue = .wait ∧ e.converts = [] ∧ e.waits = c :: rest ∧ e.holders = [d] ∧
      (s.claimAt c).map (·.state) = some (.waiting m wait)) ∨
    (queue = .convert ∧ e.converts = c :: rest ∧ (e.holders = [c, d] ∨ e.holders = [d, c]) ∧
      ∃ x, (s.claimAt c).map (·.state) = some (.converting x m wait)) →
    s.claimAt d = some b → b.state.heldMode = some held →
    held.compatible m = false → (m = .exclusive → s.nextSerial ≠ none) → b.noticed = false →
    (s.session b.session).state = .opened o → o.notices = true → (s.chan o.channel).state = .active →
    let notice : Notice := .contention d (s.claimHandle d) (s.sessionHandle b.session) e.key held m queue s.now
    let told : State := s.setClaim d ⟨(s.claim d).tag, some { b with noticed := true }⟩
    ((s.chan o.channel).notices = [] → 1 ≤ (s.chan o.channel).unreserved →
      s.finish w = told.setChan o.channel ((s.chan o.channel).issue notice.bytes)) ∧
    ((s.chan o.channel).notices ≠ [] ∨ (s.chan o.channel).unreserved = 0 →
      s.finish w = told.setChan o.channel
        { s.chan o.channel with notices := (s.chan o.channel).notices ++ [notice] })

/-- What an end of an event at a way leaves (R34, R36, R40), where the claims of the convert queue are holders: a convert head is
blocked by another holder, or with no conversion a wait head is blocked by a holder; neither wants X with the counter
exhausted, not even behind a draw of the last serial by this event (R40; that it is followed here and not R108 is the model's
choice, log entry 24); an ACTIVE way has a claim; every other way, and every claim that stands at another, is as it was; and so
are time, periods, registers and the states of the channels. -/
def Obligations.PassSettles : Prop :=
  ∀ (s : State) (w : Nat), LeasesKept s → (∀ c ∈ (s.entry w).converts, c ∈ (s.entry w).holders) →
    let t := s.finish w
    (∀ c rest b x m wait, (t.entry w).converts = c :: rest → t.claimAt c = some b → b.state = .converting x m wait →
      (m = .exclusive → t.nextSerial ≠ none) ∧
        ∃ d ∈ (t.entry w).holders, d ≠ c ∧ ∃ y, t.heldMode d = some y ∧ y.compatible m = false) ∧
    (∀ c rest b m wait, (t.entry w).converts = [] → (t.entry w).waits = c :: rest → t.claimAt c = some b →
      b.state = .waiting m wait →
      (m = .exclusive → t.nextSerial ≠ none) ∧
        ∃ d ∈ (t.entry w).holders, ∃ y, t.heldMode d = some y ∧ y.compatible m = false) ∧
    (∀ e, t.way w = .active e → e.holders ≠ [] ∨ e.converts ≠ [] ∨ e.waits ≠ []) ∧
    (∀ k, k ≠ w → t.way k = s.way k) ∧
    (∀ c, (s.claimAt c).map (·.way) ≠ some w → t.claimAt c = s.claimAt c) ∧ s.sameFrame t

/-! ### Management requests -/

/-- SETUP_CHANNEL of an OFF channel (R121, R157): it is ACTIVE with the rings, vector and limits of the request, no access in
any domain, indices 0 and phase 1, and the reply is OK. Nothing else changes. -/
def Obligations.SetupChannelActivates : Prop :=
  ∀ (s : State) (tag : ReqTag) (target vector : BitVec 8) (sessionLimit claimLimit : BitVec 16) (reqBase rplBase : HostAddr)
    (reqSize rplSize : BitVec 16),
    let c : Instr := .setupChannel 0 tag target vector sessionLimit claimLimit reqBase rplBase reqSize rplSize
    s.nextRequest 0 = some c → c.inRange = true → (s.chan target.toNat).state = .off →
    exec c s = .next ((s.setChan target.toNat
      { Channel.reset with
        state := .active
        rings := some ⟨reqBase, reqSize.toNat, rplBase, rplSize.toNat, vector.toNat⟩
        sessionLimit := sessionLimit.toNat
        claimLimit := claimLimit.toNat }).answered 0 ⟨.setupChannel, tag, .ok, .header⟩)

/-- The state of the target that a management request is refused for (R157, R158, R160, R161, R162): CLOSING with BUSY for
each; ACTIVE or FAULTED for SETUP_CHANNEL, OFF for TEARDOWN_CHANNEL, SET_ACCESS and SET_LIMITS, and OFF or ACTIVE for
RESTART_CHANNEL with WRONG_STATE; FAULTED with DMA in flight for RESTART_CHANNEL with BUSY. Nothing else changes. -/
def Obligations.TargetStateRefused : Prop :=
  ∀ (s : State) (c : Instr) (target : BitVec 8), c.requestChannel = some 0 → s.nextRequest 0 = some c → c.inRange = true →
    c.targetArgument = some target →
    let refused (st : Status) : Prop := exec c s = .next (s.answered 0 ⟨c.replyKind, c.requestTag, st, .header⟩)
    let x := s.chan target.toNat
    (x.state = .closing → refused .busy) ∧
    (c.replyKind = .setupChannel → x.state = .active ∨ x.state = .faulted → refused .wrongState) ∧
    (c.replyKind = .teardownChannel ∨ c.replyKind = .setAccess ∨ c.replyKind = .setLimits → x.state = .off →
      refused .wrongState) ∧
    (c.replyKind = .restartChannel →
      (x.state = .off ∨ x.state = .active → refused .wrongState) ∧
      (x.state = .faulted → x.writes ≠ [] ∨ x.fetch ≠ .idle → refused .busy))

/-- TEARDOWN_CHANNEL of an ACTIVE or FAULTED channel (R91, R139, R158): every session of the channel is freed with its tag
advanced and every claim of theirs is freed, silently; the VALID value of a sole X holder among them becomes INVALID; no
claim comes into use. With no DMA in flight the record takes its
reset values and the reply OK is the last entry written on channel 0; else the channel is CLOSING, owes nothing, has no
pending notice, keeps its writes in flight, and the reply is pending. Other sessions keep all but that claims may leave
their lists and their pending flags, other channels their states, and time and periods stay. -/
def Obligations.TeardownChannelFrees : Prop :=
  ∀ (s : State) (tag : ReqTag) (target : BitVec 8), targetInRange target = true →
    s.nextRequest 0 = some (.teardownChannel 0 tag target) →
    let n := target.toNat
    let x := s.chan n
    x.state = .active ∨ x.state = .faulted →
    ∃ t, exec (.teardownChannel 0 tag target) s = .next t ∧
      (∀ i, (s.session i).channel = some n → t.session i = SessionRec.freed i (s.session i).tag) ∧
      (∀ i o, (s.session i).state = .opened o → o.channel = n → ∀ c ∈ o.claims, t.claimAt c = none) ∧
      (∀ i o c w e v, (s.session i).state = .opened o → o.channel = n → s.soleExclusive o.claims c w e v →
        t.way w = .dormant { e with holders := [], value := .invalid v }) ∧
      (∀ c, s.claimAt c = none → t.claimAt c = none) ∧
      (x.writes = [] → (∀ a k, x.fetch ≠ .reading a k) →
        t.chan n = Channel.reset ∧ (t.chan 0).answeredLast ⟨.teardownChannel, tag, .ok, .header⟩) ∧
      (x.writes ≠ [] ∨ (∃ a k, x.fetch = .reading a k) →
        (t.chan n).state = .closing ∧ (t.chan n).owed = 0 ∧ (t.chan n).notices = [] ∧ (t.chan n).writes = x.writes ∧
          t.teardownReplies.get n = some tag) ∧
      (∀ i, (s.session i).channel ≠ some n → (s.session i).untouched (t.session i)) ∧
      (∀ k, k ≠ n → (t.chan k).state = (s.chan k).state) ∧
      t.ready = s.ready ∧ t.now = s.now ∧ t.period = s.period ∧ t.requestedPeriod = s.requestedPeriod ∧
      t.mgmt = s.mgmt ∧ t.pending = s.pending

/-- RESTART_CHANNEL of a FAULTED channel without DMA in flight (R138, R147, R149, R160): its ring state starts anew, ACTIVE
with cause NONE, its rings, vector, limits and access kept; a CHANNEL_FAULTED notice for it leaves channel 0's list; the
reply is OK. When no claim of its sessions stands at an entry with a blocking head nothing else changes; a single claim
that blocks a head, untold and of a session with notices enabled, is told on the restarted channel. -/
def Obligations.RestartChannelRestarts : Prop :=
  ∀ (s : State) (tag : ReqTag) (target : BitVec 8), targetInRange target = true →
    s.nextRequest 0 = some (.restartChannel 0 tag target) →
    let n := target.toNat
    let x := s.chan n
    x.state = .faulted → x.writes = [] → x.fetch = .idle →
    let anew : Channel := { Channel.reset with
      state := .active, rings := x.rings, sessionLimit := x.sessionLimit, claimLimit := x.claimLimit, access := x.access }
    ((∀ c ∈ s.claimsOf n, ∀ b, s.claimAt c = some b → (s.entry b.way).blockingHead = none) →
      exec (.restartChannel 0 tag target) s = .next
        (((s.setChan n anew).dropNotices 0 (Notice.faultOf n)).answered 0 ⟨.restartChannel, tag, .ok, .header⟩)) ∧
    (∀ c b o head queue held wanted, s.claimsOf n = [c] → s.claimAt c = some b → 2 ≤ anew.rplSize →
      (s.session b.session).state = .opened o → o.channel = n → o.notices = true → b.noticed = false →
      b.state.heldMode = some held → (s.entry b.way).blockingHead = some (head, queue) → head ≠ c →
      s.wantedMode head = some wanted → held.compatible wanted = false →
      let notice : Notice := .contention c (s.claimHandle c) (s.sessionHandle b.session) (s.entry b.way).key held wanted queue
        s.now
      exec (.restartChannel 0 tag target) s = .next
        ((((s.setChan n (anew.issue notice.bytes)).setClaim c
            ⟨(s.claim c).tag, some { b with noticed := true }⟩).dropNotices 0 (Notice.faultOf n)).answered 0
          ⟨.restartChannel, tag, .ok, .header⟩))

/-- SET_ACCESS (R161). A domain above 15 or a level that encodes none is refused BAD_REQUEST, a CLOSING target BUSY, an OFF one
WRONG_STATE; for an ACTIVE or FAULTED target the domain's entry takes the new level, and the reply OK carries the old one.
Nothing else changes. -/
def Obligations.SetAccessStores : Prop :=
  ∀ (s : State) (tag : ReqTag) (target domain level : BitVec 8), targetInRange target = true →
    s.nextRequest 0 = some (.setAccess 0 tag target domain level) →
    let answers (st : Status) (body : ReplyBody) (t : State) : Prop :=
      exec (.setAccess 0 tag target domain level) s = .next (t.answered 0 ⟨.setAccess, tag, st, body⟩)
    let x := s.chan target.toNat
    (15 < domain.toNat ∨ (∀ l : Level, level ≠ l.code) → answers .badRequest .header s) ∧
    (∀ l : Level, domain.toNat ≤ 15 → level = l.code →
      (x.state = .closing → answers .busy .header s) ∧
      (x.state = .off → answers .wrongState .header s) ∧
      (x.state = .active ∨ x.state = .faulted →
        answers .ok (.level (x.access.get domain.toNat))
          (s.setChan target.toNat { x with access := x.access.set domain.toNat l })))

/-- SET_LIMITS of an ACTIVE or FAULTED target (R162): below the use of either limit it is refused QUOTA with both limits as they
were; else both take their new values, and the reply is OK. SET_TICK (R96): from 10 to 1,000,000 microseconds the requested
period is replaced, for the next tick to bring into force, and the reply is OK; outside that range it is refused
BAD_REQUEST. Nothing else changes. -/
def Obligations.SetLimitsAndTickStore : Prop :=
  (∀ (s : State) (tag : ReqTag) (target : BitVec 8) (sessionLimit claimLimit : BitVec 16), targetInRange target = true →
      sessionLimit.toNat ≤ 512 → claimLimit.toNat ≤ 32768 →
      s.nextRequest 0 = some (.setLimits 0 tag target sessionLimit claimLimit) →
      let n := target.toNat
      (s.chan n).state = .active ∨ (s.chan n).state = .faulted →
      (sessionLimit.toNat < s.sessionCount n ∨ claimLimit.toNat < s.claimCount n →
        exec (.setLimits 0 tag target sessionLimit claimLimit) s =
          .next (s.answered 0 ⟨.setLimits, tag, .quota, .header⟩)) ∧
      (s.sessionCount n ≤ sessionLimit.toNat → s.claimCount n ≤ claimLimit.toNat →
        exec (.setLimits 0 tag target sessionLimit claimLimit) s = .next
          ((s.setChan n { s.chan n with sessionLimit := sessionLimit.toNat, claimLimit := claimLimit.toNat }).answered 0
            ⟨.setLimits, tag, .ok, .header⟩))) ∧
  (∀ (s : State) (tag : ReqTag) (period : BitVec 32), s.nextRequest 0 = some (.setTick 0 tag period) →
      (10 ≤ period.toNat ∧ period.toNat ≤ 1000000 → exec (.setTick 0 tag period) s =
        .next ({ s with requestedPeriod := some period }.answered 0 ⟨.setTick, tag, .ok, .header⟩)) ∧
      (period.toNat < 10 ∨ 1000000 < period.toNat → exec (.setTick 0 tag period) s =
        .next (s.answered 0 ⟨.setTick, tag, .badRequest, .header⟩)))

/-- DISCARD_RESOURCE (R17): a DORMANT key leaves its bucket's dormant order, its way is FREE, and the reply is OK; a key in an
ACTIVE way is refused BUSY; an absent one NOT_FOUND. Nothing else changes. -/
def Obligations.DiscardResourceFrees : Prop :=
  ∀ (s : State) (tag : ReqTag) (k : Key), s.nextRequest 0 = some (.discardResource 0 tag (k.domain.setWidth 8) k.name) →
    let answers (st : Status) (t : State) : Prop :=
      exec (.discardResource 0 tag (k.domain.setWidth 8) k.name) s =
        .next (t.answered 0 ⟨.discardResource, tag, st, .header⟩)
    (∀ w e, s.lookup k = some w → s.way w = .dormant e →
      answers .ok { s with
        ways := s.ways.set w .free
        dormant := s.dormant.set (bucketOf w) ((s.dormantOrder (bucketOf w)).filter (· != w)) }) ∧
    (∀ w e, s.lookup k = some w → s.way w = .active e → answers .busy s) ∧
    ((∀ w ∈ bucketWays k.bucket, s.holdsKey k w = false) → answers .notFound s)

/-- The inspections of a resource and of a session (R5, R164), which change nothing else. A resource reports its way state, its
counts, the session of its X holder or 0xFFFF, its serial and its value state, and an absent key as FREE; a session reports
OPEN with its channel, its claims and the ticks remaining, or LAPSED with its channel and reason. -/
def Obligations.InspectionsReport : Prop :=
  (∀ (s : State) (tag : ReqTag) (k : Key), s.nextRequest 0 = some (.inspectResource 0 tag (k.domain.setWidth 8) k.name) →
    let answers (body : ReplyBody) : Prop := exec (.inspectResource 0 tag (k.domain.setWidth 8) k.name) s =
      .next (s.answered 0 ⟨.inspectResource, tag, .ok, body⟩)
    ((∀ w ∈ bucketWays k.bucket, s.holdsKey k w = false) → answers (.resource .free 0 0xFFFF 0 0 0 .absent)) ∧
    (∀ w e, s.lookup k = some w → s.way w = .active e ∨ s.way w = .dormant e →
      let report (x : SessionHandle) : ReplyBody := .resource (s.way w).wayState e.holders.length x e.converts.length
        e.waits.length e.serial e.value
      ((∀ c ∈ e.holders, s.heldMode c ≠ some .exclusive) → answers (report 0xFFFF)) ∧
      (∀ c b, c ∈ e.holders → s.claimAt c = some b → b.state = .held .exclusive →
        (∀ d ∈ e.holders, s.heldMode d = some .exclusive → d = c) → answers (report (s.sessionHandle b.session))))) ∧
  (∀ (s : State) (tag : ReqTag) (i : Nat), i < 512 →
    s.nextRequest 0 = some (.inspectSession 0 tag (s.sessionHandle i)) → s.sessionHandle i ≠ noSession →
    let answers (body : ReplyBody) : Prop := exec (.inspectSession 0 tag (s.sessionHandle i)) s =
      .next (s.answered 0 ⟨.inspectSession, tag, .ok, body⟩)
    (∀ o, (s.session i).state = .opened o →
      answers (.openSession o.channel o.claims.length (o.deadline.tick - s.now))) ∧
    (∀ l, (s.session i).state = .lapsed l → answers (.lapsedSession l.channel l.reason)))

/-- INSPECT_DEVICE (R165) reports, all of one moment, the free claim records, the FREE session records, the next serial or 0
when the counter is exhausted, now, and the requested tick period if one is present and else the one in force. Nothing
else changes. -/
def Obligations.InspectDeviceReports : Prop :=
  ∀ (s : State) (tag : ReqTag), s.nextRequest 0 = some (.inspectDevice 0 tag) →
    exec (.inspectDevice 0 tag) s = .next (s.answered 0 ⟨.inspectDevice, tag, .ok,
      .device (32768 - s.claims.count (·.claim.isSome)) (512 - s.sessions.count (·.channel.isSome))
        (s.nextSerial.getD 0) s.now (s.requestedPeriod.getD s.period)⟩)

/-! ### Register writes and reads -/

/-- REQ_PROD (R122, R172), bits 0 to 15 being the index: on an ACTIVE channel an index below the request ring size is stored,
on a FAULTED one any index is, and on an OFF or CLOSING one the write is ignored. Nothing else changes. -/
def Obligations.ReqProdStored : Prop :=
  ∀ (s : State) (ch : Fin 16) (value : BitVec 32), s.ready = true →
    let x := s.chan ch
    let index := value.toNat % 2 ^ 16
    (x.state = .active ∧ index < x.reqSize ∨ x.state = .faulted →
      exec (.reqProdWrite ch value) s = .next (s.setChan ch { x with reqProd := index })) ∧
    (x.state = .off ∨ x.state = .closing → exec (.reqProdWrite ch value) s = .next s)

/-- RPL_CONS (R134, R135, R146, R172), bits 0 to 15 being the index and bit 31 the arm bit. On an ACTIVE channel with a valid
index it is stored, as many pending notices as unreserved slots are then free leave the list and are written, and, with the
arm bit, the channel sends its interrupt at once if an entry is produced and not consumed and else is armed. On a FAULTED
channel any index is stored and no more; on an OFF or CLOSING one the write is ignored. -/
def Obligations.RplConsStored : Prop :=
  ∀ (s : State) (ch : Fin 16) (value : BitVec 32), s.ready = true →
    let x := s.chan ch
    let index := value.toNat % 2 ^ 16
    let consumed : Channel := { x with rplCons := index }
    (x.state = .active → x.mayConsume index →
      (∃ t, exec (.rplConsWrite ch value) s = .next t ∧
        let k := min x.notices.length consumed.unreserved
        (t.chan ch).rplCons = index ∧ (t.chan ch).notices = x.notices.drop k ∧
          (t.chan ch).writes.length = x.writes.length + k ∧ (∀ n, n ≠ ch → t.chan n = s.chan n)) ∧
      (x.notices = [] ∨ consumed.unreserved = 0 →
        (value.getLsbD 31 = false → exec (.rplConsWrite ch value) s = .next (s.setChan ch consumed)) ∧
        (value.getLsbD 31 = true → x.rplProd = index →
          exec (.rplConsWrite ch value) s = .next (s.setChan ch { consumed with armed := true })) ∧
        (∀ r, value.getLsbD 31 = true → x.rplProd ≠ index → x.rings = some r →
          exec (.rplConsWrite ch value) s = .next
            { s.setChan ch { consumed with armed := false } with interrupts := s.interrupts ++ [r.vector] })) ∧
      (∀ i h reason tick withdrawn l, x.notices = [.sessionLapsed i h reason tick withdrawn] → 1 ≤ consumed.unreserved →
        (s.session i).state = .lapsed l → value.getLsbD 31 = false →
        exec (.rplConsWrite ch value) s = .next
          ((s.setChan ch { consumed.issue (Notice.bytes (.sessionLapsed i h reason tick withdrawn)) with
            notices := [] }).setSession i ⟨(s.session i).tag, .lapsed { l with noticePending := false }⟩))) ∧
    (x.state = .faulted → exec (.rplConsWrite ch value) s = .next (s.setChan ch consumed)) ∧
    (x.state = .off ∨ x.state = .closing → exec (.rplConsWrite ch value) s = .next s)

/-- MGMT_CONTROL (R121, R153, R154, R155), written by either command: OFF with the ENABLE bit, or FAULTED with the RESTART bit and
no DMA in flight, channel 0 starts ACTIVE with the settings of the registers if they are valid, and else is FAULTED with
cause BAD_SETUP, its configuration kept, and sends the interrupt on MGMT_VECTOR if that is from 0 to 15. In every other case
the write is ignored. Nothing else changes. -/
def Obligations.MgmtControlActs : Prop :=
  ∀ (s : State) (c : Instr) (value : BitVec 32), s.ready = true →
    c = .mgmtControlEnable value ∨ c = .mgmtControlRestart value →
    let x := s.chan 0
    let acts : Prop := (x.state = .off ∧ value.getLsbD 0 = true) ∨
      (x.state = .faulted ∧ value.getLsbD 1 = true ∧ x.writes = [] ∧ x.fetch = .idle)
    (acts → s.mgmt.accepted = true → exec c s = .next (s.setChan 0 { Channel.reset with
      state := .active
      rings := some ⟨s.mgmt.reqBase, s.mgmt.reqSize.toNat, s.mgmt.rplBase, s.mgmt.rplSize.toNat, s.mgmt.vector.toNat⟩
      sessionLimit := x.sessionLimit, claimLimit := x.claimLimit, access := x.access })) ∧
    (acts → s.mgmt.accepted = false → exec c s = .next
      { s.setChan 0 { x with state := .faulted, cause := .badSetup, armed := false } with
        interrupts := s.interrupts ++ if s.mgmt.vector.toNat ≤ 15 then [s.mgmt.vector.toNat] else [] }) ∧
    (¬acts → exec c s = .next s)

/-- The management ring registers (R152, R172): a write while channel 0 is OFF or FAULTED is stored, of a half of a base with
the other half kept; while it is ACTIVE it is ignored. A write that is none of a writable register is always ignored.
Nothing else changes. While READY is 0 every register write is ignored and no tick is taken (R95, R151). Two things here are
the model's choice and no rule of the spec: that OTHER_REGISTER_WRITE is ignored, and a wide value stored in its low 32 bits,
in the commands that are not well-formed as well, whose accesses R172 does not describe (log entry 14); and that a TICK
command changes nothing while READY is 0 (log entry 2). -/
def Obligations.RegistersStoredOrIgnored : Prop :=
  (∀ (s : State) (value : BitVec 64), s.ready = true →
    let m := s.mgmt
    let low : BitVec 32 := value.setWidth 32
    let stored (reg : RingRegister) (m' : MgmtRegs) : Prop :=
      exec (.mgmtRingRegisterWrite reg value) s = .next { s with mgmt := m' }
    ((s.chan 0).state = .off ∨ (s.chan 0).state = .faulted →
      stored .reqBase { m with reqBase := value } ∧
      stored .reqBaseLow { m with reqBase := m.reqBase.extractLsb' 32 32 ++ low } ∧
      stored .reqBaseHigh { m with reqBase := low ++ m.reqBase.extractLsb' 0 32 } ∧
      stored .reqSize { m with reqSize := low } ∧
      stored .rplBase { m with rplBase := value } ∧
      stored .rplBaseLow { m with rplBase := m.rplBase.extractLsb' 32 32 ++ low } ∧
      stored .rplBaseHigh { m with rplBase := low ++ m.rplBase.extractLsb' 0 32 } ∧
      stored .rplSize { m with rplSize := low } ∧
      stored .vector { m with vector := low }) ∧
    ((s.chan 0).state = .active → ∀ reg, exec (.mgmtRingRegisterWrite reg value) s = .next s) ∧
    (∀ offset bytes, exec (.otherRegisterWrite offset bytes value) s = .next s)) ∧
  (∀ (s : State) (c : Instr), s.ready = false →
    (∃ ch value, c = .reqProdWrite ch value ∨ c = .rplConsWrite ch value) ∨
      (∃ value, c = .mgmtControlEnable value ∨ c = .mgmtControlRestart value) ∨
      (∃ reg value, c = .mgmtRingRegisterWrite reg value) ∨ (∃ offset bytes value, c = .otherRegisterWrite offset bytes value) ∨
      c = .tick →
    exec c s = .next s)

/-- What register reads return (R119, R152, R172): DEVICE_STATUS and CH_STATUS from their fields, the indices as stored, the
management ring registers as stored, zero for MGMT_CONTROL and for every offset that holds no register, and of a narrower
read the addressed bytes. -/
def Obligations.RegisterReads : Prop :=
  ∀ (s : State),
    (s.read32 0x00).toNat = s.ready.toNat + 2 * (s.chan 0).state.code.toNat + 16 * (s.chan 0).cause.code.toNat ∧
    s.read32 0x04 = 0 ∧ s.read64 0x08 = s.mgmt.reqBase ∧ s.read32 0x10 = s.mgmt.reqSize ∧
    s.read64 0x18 = s.mgmt.rplBase ∧ s.read32 0x20 = s.mgmt.rplSize ∧ s.read32 0x24 = s.mgmt.vector ∧
    (∀ n < 16, let x := s.chan n
      s.read32 (0x1000 + 0x100 * n) = BitVec.ofNat 32 x.reqProd ∧
      s.read32 (0x1004 + 0x100 * n) = BitVec.ofNat 32 x.reqCons ∧
      s.read32 (0x1008 + 0x100 * n) = BitVec.ofNat 32 x.rplProd ∧
      s.read32 (0x100C + 0x100 * n) = BitVec.ofNat 32 x.rplCons ∧
      (s.read32 (0x1010 + 0x100 * n)).toNat = x.state.code.toNat + 16 * x.cause.code.toNat +
        256 * (if x.fetch ≠ .idle ∨ x.writes ≠ [] then 1 else 0)) ∧
    (∀ offset, offset % 4 = 0 → offset ∉ [0x00, 0x04, 0x08, 0x0C, 0x10, 0x18, 0x1C, 0x20, 0x24] →
      (∀ n < 16, offset ∉ [0x1000 + 0x100 * n, 0x1004 + 0x100 * n, 0x1008 + 0x100 * n, 0x100C + 0x100 * n,
        0x1010 + 0x100 * n]) → s.read32 offset = 0) ∧
    (∀ offset, (s.read8 offset).toNat = (s.read32 (4 * (offset / 4))).toNat / 256 ^ (offset % 4) % 256) ∧
    (∀ offset, offset % 2 = 0 →
      (s.read16 offset).toNat = (s.read32 (4 * (offset / 4))).toNat / 256 ^ (offset % 4) % 256 ^ 2)

/-! ### Faults of a channel -/

/-- An ACTIVE client channel at an event that faults it (R122, R128, R133, R134, R136, R142, R144). In a state whose lists of
claims are in order, the command completes with the channel FAULTED, its cause recorded and its waits withdrawn. Of a channel
without sessions, the CHANNEL_FAULTED notice is written on an ACTIVE channel 0 at once when none is pending and an unreserved
slot is free, and else joins its list; while channel 0 is not ACTIVE none is raised. -/
def Obligations.ClientChannelFaults : Prop :=
  (∀ (s : State) (c : Instr) (ch : Fin 16) (cause : Cause), ch ≠ 0 → (s.chan ch).state = .active →
      s.faultEvent c ch cause → LeasesKept s →
      ∃ t, exec c s = .next t ∧ s.faultedTo t ch c cause) ∧
  (∀ (s : State) (c : Instr) (ch : Fin 16) (cause : Cause), ch ≠ 0 → (s.chan ch).state = .active →
      s.faultEvent c ch cause → s.sessionsOf ch = [] →
      ∃ t, exec c s = .next t ∧ t.chan ch = (s.chan ch).faultedBy c cause ∧
        let x := s.chan 0
        let notice : Notice := .channelFaulted ch cause s.now
        (x.state = .active → x.notices = [] → 1 ≤ x.unreserved → t.chan 0 = x.issue notice.bytes) ∧
        (x.state = .active → x.notices ≠ [] ∨ x.unreserved = 0 → t.chan 0 = { x with notices := x.notices ++ [notice] }) ∧
        (x.state ≠ .active → t.chan 0 = x))

/-- Channel 0 at an event that faults it (R136, R154, R159): FAULTED with its cause, the pending teardown replies discarded, and
the interrupt sent on its vector whether or not it is armed. No notice is raised, and nothing else changes. -/
def Obligations.ManagementChannelFaults : Prop :=
  ∀ (s : State) (c : Instr) (cause : Cause) (r : Rings), (s.chan 0).state = .active → (s.chan 0).rings = some r →
    s.faultEvent c 0 cause →
    exec c s = .next { s.setChan 0 ((s.chan 0).faultedBy c cause) with
      teardownReplies := Table.empty, interrupts := s.interrupts ++ [r.vector] }

/-! ### Time -/

/-- TICK while READY is 1 (R93, R94, R96): now advances by one, modulo 2^32, a requested period comes into force, and each armed
deadline equal to the new now is due from then on, a due one staying due. Nothing else changes. -/
def Obligations.TickAdvances : Prop :=
  ∀ (s : State), s.ready = true →
    ∃ t, exec .tick s = .next t ∧
      t = { s with
        now := s.now + 1, period := s.requestedPeriod.getD s.period, requestedPeriod := none
        sessions := t.sessions, claims := t.claims } ∧
      (∀ i o, (s.session i).state = .opened o → t.session i =
        ⟨(s.session i).tag, .opened { o with deadline := o.deadline.after (s.now + 1) }⟩) ∧
      (∀ i, (∀ o, (s.session i).state ≠ .opened o) → t.session i = s.session i) ∧
      (∀ c b m tag d, s.claimAt c = some b → b.state = .waiting m ⟨tag, some d⟩ →
        t.claim c = ⟨(s.claim c).tag, some { b with state := .waiting m ⟨tag, some (d.after (s.now + 1))⟩ }⟩) ∧
      (∀ c b x m tag d, s.claimAt c = some b → b.state = .converting x m ⟨tag, some d⟩ →
        t.claim c = ⟨(s.claim c).tag, some { b with state := .converting x m ⟨tag, some (d.after (s.now + 1))⟩ }⟩) ∧
      (∀ c, (∀ b, s.claimAt c = some b → b.state.wait.bind (·.deadline) = none) → t.claim c = s.claim c)

/-- WAIT_EXPIRY of a due deadline (R66): a WAITING claim is freed and its ACQUIRE answered TIMED_OUT; a CONVERTING claim leaves
the convert queue, is HELD at its old mode, and its CONVERT is answered TIMED_OUT with its handle and that mode. The event
then ends at the entry. A deadline that is not due is not delivered, and nothing changes, which is how the model takes such
a command (log entry 2). -/
def Obligations.WaitExpiryEndsWait : Prop :=
  ∀ (s : State) (c : Fin 32768),
    (∀ b o e tag tick, s.claimAt c = some b → (s.session b.session).state = .opened o → s.way b.way = .active e →
      (∀ m, b.state = .waiting m ⟨tag, some ⟨tick, true⟩⟩ → exec (.waitExpiry c) s = .next
        (((s.withFreedClaim b.session o c b.way e).hand o.channel ⟨.acquire, tag, .timedOut, .header⟩).finish b.way)) ∧
      (∀ x m, b.state = .converting x m ⟨tag, some ⟨tick, true⟩⟩ → exec (.waitExpiry c) s = .next
        (({ s with
            claims := s.claims.set c ⟨(s.claim c).tag, some { b with state := .held x }⟩
            ways := s.ways.set b.way (.active { e with converts := e.converts.filter (· != c.val) }) }.hand o.channel
          ⟨.convert, tag, .timedOut, .claimMode (s.claimHandle c) (some x)⟩).finish b.way))) ∧
    ((∀ b w d, s.claimAt c = some b → b.state.wait = some w → w.deadline = some d → d.due = false) →
      exec (.waitExpiry c) s = .next s)

/-! ### The DMA of the rings -/

/-- FETCH_ISSUE (R124, R125, R126): the first ready channel after the last granted, around the sixteen, issues a fetch of the
smallest of 4, its pending count and its unreserved free slots, from REQ_CONS; as many slots are owed, and it is the last
granted. Nothing else changes. With no channel ready there is no grant, and nothing changes (log entry 2). -/
def Obligations.FetchIssued : Prop :=
  ∀ (s : State),
    let ready (n : Nat) : Prop := (s.chan n).state = .active ∧ (s.chan n).fetch = .idle ∧ 1 ≤ (s.chan n).pendingCount ∧
      1 ≤ (s.chan n).unreserved
    (∀ n < 16, s.lastGranted < 16 → ready n →
      (∀ k < 16, ready k → (n + 15 - s.lastGranted) % 16 ≤ (k + 15 - s.lastGranted) % 16) →
      let x := s.chan n
      let count := min 4 (min x.pendingCount x.unreserved)
      exec .fetchIssue s = .next { s.setChan n { x with fetch := .reading x.reqCons count, owed := x.owed + count } with
        lastGranted := n }) ∧
    ((∀ n < 16, ¬ready n) → exec .fetchIssue s = .next s)

/-- Completions on an ACTIVE channel. FETCH_COMPLETION (R127): REQ_CONS advances by the entries of the fetch, around the ring,
and they stand next to be taken in ring order, as the copy that the fetch brought spells them. WRITE_COMPLETION (R132):
RPL_PROD advances by one, around the ring, the oldest write leaves the writes in flight, and an armed channel sends its
interrupt and is armed no more. Nothing else changes. A fetch completion that brings another number of entries, or of no
fetch in flight, and a completion or error of no write in flight, is no event of the part (log entries 2 and 12). -/
def Obligations.CompletionsTaken : Prop :=
  (∀ (s : State) (ch : Fin 16) (entries : List RingEntry),
    let x := s.chan ch
    (∀ start, x.state = .active → x.fetch = .reading start entries.length →
      exec (.fetchCompletion ch entries) s = .next (s.setChan ch { x with
        reqCons := (x.reqCons + entries.length) % x.reqSize
        fetch := .taking (entries.map (decodeEntry ch)) })) ∧
    ((∀ start, x.fetch ≠ .reading start entries.length) → exec (.fetchCompletion ch entries) s = .next s)) ∧
  (∀ (s : State) (ch : Fin 16),
    let x := s.chan ch
    (∀ w rest r, x.state = .active → x.writes = w :: rest → x.rings = some r →
      exec (.writeCompletion ch) s = .next
        { s.setChan ch { x with rplProd := (x.rplProd + 1) % x.rplSize, writes := rest, armed := false } with
          interrupts := s.interrupts ++ if x.armed then [r.vector] else [] }) ∧
    (x.writes = [] → exec (.writeCompletion ch) s = .next s ∧ exec (.writeError ch) s = .next s))

/-- Completions and errors on a channel that is FAULTED or CLOSING (R128, R132, R139), and TEARDOWN_END: a fetch's clears the
fetch-in-flight flag, a write's lowers writes in flight, neither changes an index or a cause or sends an interrupt; the
last one of a CLOSING channel makes it OFF, its record reset and the pending reply OK handed to channel 0. TEARDOWN_END
does so when no DMA is in flight and is else no event (log entries 2 and 7). -/
def Obligations.StoppedChannelDrains : Prop :=
  ∀ (s : State) (ch : Fin 16),
    let x := s.chan ch
    let drained (y : Channel) : State :=
      if x.state = .closing ∧ y.fetch = .idle ∧ y.writes = [] then (s.setChan ch y).tornDown ch else s.setChan ch y
    (x.state = .faulted ∨ x.state = .closing →
      (∀ start count, x.fetch = .reading start count →
        exec (.fetchError ch) s = .next (drained { x with fetch := .idle }) ∧
        ∀ entries, entries.length = count →
          exec (.fetchCompletion ch entries) s = .next (drained { x with fetch := .idle })) ∧
      (∀ w rest, x.writes = w :: rest →
        exec (.writeCompletion ch) s = .next (drained { x with writes := rest }) ∧
        exec (.writeError ch) s = .next (drained { x with writes := rest }))) ∧
    (x.state = .closing → x.fetch = .idle → x.writes = [] → exec (.teardownEnd ch) s = .next (s.tornDown ch)) ∧
    (x.state ≠ .closing ∨ x.fetch ≠ .idle ∨ x.writes ≠ [] → exec (.teardownEnd ch) s = .next s)

/-! ### What every step keeps -/

/-- The channel records stay in order (R119, R136, R139, R142, R153, R157): an OFF channel is at its reset values; one that is
not ACTIVE owes nothing, has no pending notice and no entry to take; the rings of one that has them are valid; and the
indices of an ACTIVE one lie within its rings. The counts stay within the limits (R77): no channel has more sessions than its
session limit or more claims than its claim limit, an OFF or CLOSING one has no session, and the last granted channel is one
of the sixteen (R125). -/
def Obligations.ChannelsKeptByStep : Prop :=
  (∀ s t : State, ChannelsQuiet s → RingsKept s → step s = .next t → ChannelsQuiet t ∧ RingsKept t) ∧
    ∀ s t : State, CountsKept s → step s = .next t → CountsKept t

/-- The Resource Table stays in order (R3, R4, R14, R15, R16): keys in their own bucket and in one way each, the dormant orders
exact, DORMANT entries without claims and with a value. -/
def Obligations.ResourcesKeptByStep : Prop :=
  ∀ s t : State, ResourcesKept s → step s = .next t → ResourcesKept t

/-- Every claim in use stays placed by its state (R24, R80): in its OPEN session's list, and in the lists of its ACTIVE entry
that its state calls for, once in each; these lists hold nothing else, a session has one claim on a resource at most, and
the records in use are those of the pool. -/
def Obligations.ClaimsPlacedKeptByStep : Prop :=
  ∀ s t : State, ResourcesKept s → ClaimsPlaced s → step s = .next t → ClaimsPlaced t

/-- Reservations stay in order (R25, R129): the owed count of a channel is one for each WAITING or CONVERTING claim of its
sessions, for each entry of its fetch still to be taken, and on channel 0 for each pending teardown reply; and on an ACTIVE
channel the entries written and not consumed plus the owed count never exceed the reply ring size less one. -/
def Obligations.ReservationsKeptByStep : Prop :=
  ∀ s t : State, ClaimsPlaced s → ChannelsQuiet s → RingsKept s → ReservationsKept s → step s = .next t →
    ReservationsKept t

/-- No step brings two claims in incompatible modes into one holder list, nor an X holder whose serial is not its entry's fence
serial (R24, R32, R109), whatever the command. -/
def Obligations.LeasesKeptByStep : Prop :=
  ∀ s t : State, LeasesKept s → step s = .next t → LeasesKept t

/-- Serials stay distinct and drawn (R106, R107, R108): 0 is never the next serial, every serial of a claim or an entry lies
below the next one, and no two claims carry the same. -/
def Obligations.SerialsKeptByStep : Prop :=
  ∀ s t : State, SerialsKept s → step s = .next t → SerialsKept t

/-- No session record comes to have the handle 0xFFFF (R75), and the tick periods stay from 10 to 1,000,000 microseconds (R95,
R96). -/
def Obligations.HandlesAndPeriodsKeptByStep : Prop :=
  ∀ s t : State, (HandlesKept s → step s = .next t → HandlesKept t) ∧ (PeriodsKept s → step s = .next t → PeriodsKept t)

/-- The machine right after a device reset meets every one of these. -/
def Obligations.ResetMeetsInvariants : Prop :=
  ChannelsQuiet State.reset ∧ RingsKept State.reset ∧ CountsKept State.reset ∧ ResourcesKept State.reset ∧
    ClaimsPlaced State.reset ∧ ReservationsKept State.reset ∧ LeasesKept State.reset ∧ SerialsKept State.reset ∧
    HandlesKept State.reset ∧ PeriodsKept State.reset

/-! ### Rules of the whole block -/

/-- A channel changes its state only at the commands, and only between the states, that R120 names for it (R120, R121, R139,
R151, R153, R155). -/
def Obligations.ChannelTransitions : Prop :=
  ∀ (s t : State) (c : Instr) (rest : List Instr), s.pending = c :: rest → step s = .next t →
    ∀ n, (t.chan n).state = (s.chan n).state ∨ c.transition n (s.chan n).state (t.chan n).state = true

/-- Outside a device reset and the end of start-up, the Fence Counter never falls and READY stays; and but for a tick, now and
the tick period in force stay (R93, R94, R96, R106, R107). -/
def Obligations.TimeAndSerialsOnlyAdvance : Prop :=
  ∀ (s t : State) (c : Instr) (rest : List Instr), s.pending = c :: rest → step s = .next t → c ≠ .deviceReset →
    c ≠ .startupEnd →
    s.counter ≤ t.counter ∧ t.ready = s.ready ∧ t.pending = rest ∧ (c ≠ .tick → t.now = s.now ∧ t.period = s.period)

/-- Sessions of one channel are out of the reach of the others (R75, R81, R84, R90): no request of another client channel, no
register write, fault, DMA or expiry of another owner opens, renews, lapses or frees session record `i`; it can only take
claims off its list, leaving the others in their order, or change its pending-notice flag. -/
def Obligations.SessionsIsolated : Prop :=
  ∀ (s t : State) (c : Instr) (rest : List Instr) (i : Nat), s.pending = c :: rest → step s = .next t → c ≠ .tick →
    c ≠ .deviceReset → c ≠ .startupEnd → ¬c.reaches s i → (s.session i).untouched (t.session i)
end

