-- ==== Sys2Proof/Laws/Table.lean ====
section
/-! SUPPORT. The laws of sparse tables: a read after a write, tables with equal records are equal, and counts. -/

namespace Sys2Proof.Machine

variable {α : Type} {d : α}

theorem cellsGet_lt {cells : List (Nat × α)} (h : cells.Pairwise fun a b => a.1 < b.1) {n : Nat}
    (hn : ∀ p ∈ cells, n < p.1) : cellsGet d cells n = d := by
  induction cells with
  | nil => rfl
  | cons c t ih =>
    obtain ⟨k, v⟩ := c
    have hk : n < k := hn (k, v) List.mem_cons_self
    rw [cellsGet, if_neg (by omega)]
    exact ih (List.pairwise_cons.mp h).2 fun p hp => hn p (List.mem_cons_of_mem _ hp)

theorem cellsGet_set [DecidableEq α] (n m : Nat) (v : α) {cells : List (Nat × α)}
    (h : cells.Pairwise fun a b => a.1 < b.1) :
    cellsGet d (cellsSet d n v cells) m = if m = n then v else cellsGet d cells m := by
  induction cells with
  | nil =>
    by_cases hv : v = d <;> by_cases hm : m = n <;> simp [cellsSet, cellsGet, hv, hm]
  | cons c t ih =>
    obtain ⟨k, w⟩ := c
    obtain ⟨hk, ht⟩ := List.pairwise_cons.mp h
    have hlow : n < k → cellsGet d ((k, w) :: t) n = d := fun hlt =>
      cellsGet_lt h fun p hp => (List.mem_cons.mp hp).elim (fun e => e ▸ hlt) fun hp => Nat.lt_trans hlt (hk p hp)
    rcases Nat.lt_trichotomy n k with hlt | rfl | hgt
    · by_cases hv : v = d <;> by_cases hm : m = n
      · simp [cellsSet, hlt, hv, hm, hlow hlt]
      · simp [cellsSet, hlt, hv, hm]
      · simp [cellsSet, hlt, hv, hm, cellsGet]
      · rw [cellsSet, if_pos hlt, if_neg hv, cellsGet, if_neg hm]
    · by_cases hv : v = d <;> by_cases hm : m = n
      · simp [cellsSet, hv, hm, cellsGet_lt ht hk]
      · simp [cellsSet, hv, hm, cellsGet]
      · simp [cellsSet, hv, hm, cellsGet]
      · simp [cellsSet, hv, hm, cellsGet]
    · rw [cellsSet, if_neg (by omega), if_neg (by omega), cellsGet, ih ht, cellsGet]
      by_cases hm : m = n
      · rw [if_neg (by omega), if_pos hm, if_pos hm]
      · rw [if_neg hm, if_neg hm]

theorem mem_of_cellsGet_ne {cells : List (Nat × α)} {n : Nat} (h : cellsGet d cells n ≠ d) :
    (n, cellsGet d cells n) ∈ cells := by
  induction cells with
  | nil => exact absurd rfl h
  | cons c t ih =>
    obtain ⟨k, v⟩ := c
    rw [cellsGet] at h ⊢
    split_ifs at h ⊢ with hk
    · exact hk ▸ List.mem_cons_self
    · exact List.mem_cons_of_mem _ (ih h)

theorem cellsGet_of_mem {cells : List (Nat × α)} (h : cells.Pairwise fun a b => a.1 < b.1) {n : Nat} {v : α}
    (hm : (n, v) ∈ cells) : cellsGet d cells n = v := by
  induction cells with
  | nil => cases hm
  | cons c t ih =>
    obtain ⟨k, w⟩ := c
    obtain ⟨hk, ht⟩ := List.pairwise_cons.mp h
    rw [cellsGet]
    rcases List.mem_cons.mp hm with he | hm
    · cases he
      rw [if_pos rfl]
    · rw [if_neg (by have := hk _ hm; simp at this; omega)]
      exact ih ht hm

namespace Table

@[simp] theorem get_set [DecidableEq α] (t : Table α d) (n m : Nat) (v : α) :
    (t.set n v).get m = if m = n then v else t.get m := cellsGet_set n m v t.canonical.1

@[simp] theorem get_empty (n : Nat) : (Table.empty : Table α d).get n = d := rfl

theorem mem_indices (t : Table α d) (n : Nat) : n ∈ t.indices ↔ t.get n ≠ d := by
  constructor
  · intro h
    obtain ⟨⟨k, v⟩, hm, rfl⟩ := List.mem_map.mp h
    rw [get, cellsGet_of_mem t.canonical.1 hm]
    exact t.canonical.2 _ hm
  · intro h
    exact List.mem_map.mpr ⟨_, mem_of_cellsGet_ne h, rfl⟩

theorem indices_nodup (t : Table α d) : t.indices.Nodup :=
  List.pairwise_map.mpr (t.canonical.1.imp fun h => Nat.ne_of_lt h)

/-- Tables with equal records are equal data. -/
theorem ext_get {t u : Table α d} (h : ∀ n, t.get n = u.get n) : t = u := by
  obtain ⟨a, ha⟩ := t
  obtain ⟨b, hb⟩ := u
  simp only [get] at h
  simp only [mk.injEq]
  have memIff : ∀ {x y : List (Nat × α)}, CanonicalCells d x → CanonicalCells d y →
      (∀ n, cellsGet d x n = cellsGet d y n) → ∀ p ∈ x, p ∈ y := by
    intro x y hx hy hxy p hp
    obtain ⟨k, v⟩ := p
    have hv := cellsGet_of_mem (d := d) hx.1 hp
    have hne : cellsGet d y k ≠ d := by rw [← hxy, hv]; exact hx.2 _ hp
    have := mem_of_cellsGet_ne hne
    rwa [← hxy, hv] at this
  have nodup : ∀ {x : List (Nat × α)}, CanonicalCells d x → x.Nodup := fun hx =>
    hx.1.imp fun {p q} hpq he => by rw [he] at hpq; omega
  exact ((List.perm_ext_iff_of_nodup (nodup ha) (nodup hb)).mpr fun p =>
    ⟨memIff ha hb h p, memIff hb ha (fun n => (h n).symm) p⟩).eq_of_pairwise'
      (ha.1.imp fun {p q} hpq => hpq) (hb.1.imp fun {p q} hpq => hpq)

theorem set_get [DecidableEq α] (t : Table α d) (n : Nat) : t.set n (t.get n) = t :=
  ext_get fun m => by by_cases h : m = n <;> simp [h]

@[simp] theorem set_set [DecidableEq α] (t : Table α d) (n : Nat) (v w : α) : (t.set n v).set n w = t.set n w :=
  ext_get fun m => by by_cases h : m = n <;> simp [h]

theorem get_map [DecidableEq α] (t : Table α d) (f : α → α) (hf : f d = d) (n : Nat) :
    (t.map f).get n = f (t.get n) := by
  by_cases h : f (t.get n) = d
  · rw [h]
    by_contra hne
    have hm := mem_of_cellsGet_ne hne
    obtain ⟨⟨k, v⟩, hkv, he⟩ := List.mem_map.mp (List.mem_filter.mp hm).1
    have hne' := (List.mem_filter.mp hm).2
    simp only [Prod.mk.injEq] at he
    obtain ⟨rfl, he⟩ := he
    rw [get, cellsGet_of_mem t.canonical.1 hkv] at h
    rw [← he, h] at hne'
    simp at hne'
  · have hne : t.get n ≠ d := fun hd => h (by rw [hd, hf])
    refine cellsGet_of_mem (t.map f).canonical.1 (List.mem_filter.mpr ⟨?_, by simpa using h⟩)
    exact List.mem_map.mpr ⟨_, mem_of_cellsGet_ne hne, rfl⟩

/-- The sum of a weight over the listed records. -/
def total (t : Table α d) (f : Nat → α → Nat) : Nat := (t.cells.map fun p => f p.1 p.2).sum

theorem total_set [DecidableEq α] (t : Table α d) (f : Nat → α → Nat) (hf : ∀ n, f n d = 0) (n : Nat) (v : α) :
    (t.set n v).total f + f n (t.get n) = t.total f + f n v := by
  obtain ⟨cells, hc⟩ := t
  obtain ⟨hp, hd⟩ := hc
  simp only [total, set, get]
  clear hd
  induction cells with
  | nil => by_cases hv : v = d <;> simp [cellsSet, cellsGet, hv, hf]
  | cons c t ih =>
    obtain ⟨k, w⟩ := c
    obtain ⟨hk, ht⟩ := List.pairwise_cons.mp hp
    rcases Nat.lt_trichotomy n k with hlt | rfl | hgt
    · have hd : cellsGet d t n = d := cellsGet_lt ht fun p hp => Nat.lt_trans hlt (hk p hp)
      by_cases hv : v = d <;> simp [cellsSet, cellsGet, hlt, Nat.ne_of_lt hlt, hd, hv, hf]
      omega
    · by_cases hv : v = d <;> simp [cellsSet, cellsGet, hv, hf] <;> omega
    · have hne : n ≠ k := by omega
      have hlt : ¬ n < k := by omega
      simp only [cellsSet, cellsGet, hne, hlt, if_false, List.map_cons, List.sum_cons]
      have := ih ht
      omega

end Table

end Sys2Proof.Machine
end

