-- ==== Sys2Proof/Laws/State.lean ====
section
/-! SUPPORT. What each record update leaves: one lemma for each field of State and each update, and one for each read. -/

namespace Sys2Proof.Machine.State

variable (s : State)

/-! ### setChan -/

@[simp] theorem setChan_ready (n : Nat) (c : Channel) : (s.setChan n c).ready = s.ready := rfl
@[simp] theorem setChan_mgmt (n : Nat) (c : Channel) : (s.setChan n c).mgmt = s.mgmt := rfl
@[simp] theorem setChan_lastGranted (n : Nat) (c : Channel) : (s.setChan n c).lastGranted = s.lastGranted := rfl
@[simp] theorem setChan_teardownReplies (n : Nat) (c : Channel) : (s.setChan n c).teardownReplies = s.teardownReplies := rfl
@[simp] theorem setChan_sessions (n : Nat) (c : Channel) : (s.setChan n c).sessions = s.sessions := rfl
@[simp] theorem setChan_claims (n : Nat) (c : Channel) : (s.setChan n c).claims = s.claims := rfl
@[simp] theorem setChan_ways (n : Nat) (c : Channel) : (s.setChan n c).ways = s.ways := rfl
@[simp] theorem setChan_dormant (n : Nat) (c : Channel) : (s.setChan n c).dormant = s.dormant := rfl
@[simp] theorem setChan_nextSerial (n : Nat) (c : Channel) : (s.setChan n c).nextSerial = s.nextSerial := rfl
@[simp] theorem setChan_now (n : Nat) (c : Channel) : (s.setChan n c).now = s.now := rfl
@[simp] theorem setChan_period (n : Nat) (c : Channel) : (s.setChan n c).period = s.period := rfl
@[simp] theorem setChan_requestedPeriod (n : Nat) (c : Channel) : (s.setChan n c).requestedPeriod = s.requestedPeriod := rfl
@[simp] theorem setChan_interrupts (n : Nat) (c : Channel) : (s.setChan n c).interrupts = s.interrupts := rfl
@[simp] theorem setChan_choices (n : Nat) (c : Channel) : (s.setChan n c).choices = s.choices := rfl
@[simp] theorem setChan_pending (n : Nat) (c : Channel) : (s.setChan n c).pending = s.pending := rfl

@[simp] theorem chan_setChan (n : Nat) (c : Channel) (m : Nat) :
    (s.setChan n c).chan m = if m = n then c else s.chan m := Table.get_set ..
@[simp] theorem session_setChan (n : Nat) (c : Channel) (m : Nat) : (s.setChan n c).session m = s.session m := rfl
@[simp] theorem claim_setChan (n : Nat) (c : Channel) (m : Nat) : (s.setChan n c).claim m = s.claim m := rfl
@[simp] theorem way_setChan (n : Nat) (c : Channel) (m : Nat) : (s.setChan n c).way m = s.way m := rfl
@[simp] theorem dormantOrder_setChan (n : Nat) (c : Channel) (m : Nat) : (s.setChan n c).dormantOrder m = s.dormantOrder m := rfl
@[simp] theorem entry_setChan (n : Nat) (c : Channel) (m : Nat) : (s.setChan n c).entry m = s.entry m := rfl
@[simp] theorem claimAt_setChan (n : Nat) (c : Channel) (m : Nat) : (s.setChan n c).claimAt m = s.claimAt m := rfl
@[simp] theorem heldMode_setChan (n : Nat) (c : Channel) (m : Nat) : (s.setChan n c).heldMode m = s.heldMode m := rfl
@[simp] theorem wantedMode_setChan (n : Nat) (c : Channel) (m : Nat) : (s.setChan n c).wantedMode m = s.wantedMode m := rfl
@[simp] theorem claimHandle_setChan (n : Nat) (c : Channel) (m : Nat) : (s.setChan n c).claimHandle m = s.claimHandle m := rfl
@[simp] theorem sessionHandle_setChan (n : Nat) (c : Channel) (m : Nat) : (s.setChan n c).sessionHandle m = s.sessionHandle m := rfl

/-! ### setSession -/

@[simp] theorem setSession_ready (i : Nat) (r : SessionRec) : (s.setSession i r).ready = s.ready := rfl
@[simp] theorem setSession_mgmt (i : Nat) (r : SessionRec) : (s.setSession i r).mgmt = s.mgmt := rfl
@[simp] theorem setSession_channels (i : Nat) (r : SessionRec) : (s.setSession i r).channels = s.channels := rfl
@[simp] theorem setSession_lastGranted (i : Nat) (r : SessionRec) : (s.setSession i r).lastGranted = s.lastGranted := rfl
@[simp] theorem setSession_teardownReplies (i : Nat) (r : SessionRec) : (s.setSession i r).teardownReplies = s.teardownReplies := rfl
@[simp] theorem setSession_claims (i : Nat) (r : SessionRec) : (s.setSession i r).claims = s.claims := rfl
@[simp] theorem setSession_ways (i : Nat) (r : SessionRec) : (s.setSession i r).ways = s.ways := rfl
@[simp] theorem setSession_dormant (i : Nat) (r : SessionRec) : (s.setSession i r).dormant = s.dormant := rfl
@[simp] theorem setSession_nextSerial (i : Nat) (r : SessionRec) : (s.setSession i r).nextSerial = s.nextSerial := rfl
@[simp] theorem setSession_now (i : Nat) (r : SessionRec) : (s.setSession i r).now = s.now := rfl
@[simp] theorem setSession_period (i : Nat) (r : SessionRec) : (s.setSession i r).period = s.period := rfl
@[simp] theorem setSession_requestedPeriod (i : Nat) (r : SessionRec) : (s.setSession i r).requestedPeriod = s.requestedPeriod := rfl
@[simp] theorem setSession_interrupts (i : Nat) (r : SessionRec) : (s.setSession i r).interrupts = s.interrupts := rfl
@[simp] theorem setSession_choices (i : Nat) (r : SessionRec) : (s.setSession i r).choices = s.choices := rfl
@[simp] theorem setSession_pending (i : Nat) (r : SessionRec) : (s.setSession i r).pending = s.pending := rfl

@[simp] theorem chan_setSession (i : Nat) (r : SessionRec) (m : Nat) : (s.setSession i r).chan m = s.chan m := rfl
@[simp] theorem session_setSession (i : Nat) (r : SessionRec) (m : Nat) :
    (s.setSession i r).session m = if m = i then r else s.session m := Table.get_set ..
@[simp] theorem claim_setSession (i : Nat) (r : SessionRec) (m : Nat) : (s.setSession i r).claim m = s.claim m := rfl
@[simp] theorem way_setSession (i : Nat) (r : SessionRec) (m : Nat) : (s.setSession i r).way m = s.way m := rfl
@[simp] theorem dormantOrder_setSession (i : Nat) (r : SessionRec) (m : Nat) : (s.setSession i r).dormantOrder m = s.dormantOrder m := rfl
@[simp] theorem entry_setSession (i : Nat) (r : SessionRec) (m : Nat) : (s.setSession i r).entry m = s.entry m := rfl
@[simp] theorem claimAt_setSession (i : Nat) (r : SessionRec) (m : Nat) : (s.setSession i r).claimAt m = s.claimAt m := rfl
@[simp] theorem heldMode_setSession (i : Nat) (r : SessionRec) (m : Nat) : (s.setSession i r).heldMode m = s.heldMode m := rfl
@[simp] theorem wantedMode_setSession (i : Nat) (r : SessionRec) (m : Nat) : (s.setSession i r).wantedMode m = s.wantedMode m := rfl
@[simp] theorem claimHandle_setSession (i : Nat) (r : SessionRec) (m : Nat) : (s.setSession i r).claimHandle m = s.claimHandle m := rfl

/-! ### setClaim -/

@[simp] theorem setClaim_ready (k : Nat) (r : ClaimRec) : (s.setClaim k r).ready = s.ready := rfl
@[simp] theorem setClaim_mgmt (k : Nat) (r : ClaimRec) : (s.setClaim k r).mgmt = s.mgmt := rfl
@[simp] theorem setClaim_channels (k : Nat) (r : ClaimRec) : (s.setClaim k r).channels = s.channels := rfl
@[simp] theorem setClaim_lastGranted (k : Nat) (r : ClaimRec) : (s.setClaim k r).lastGranted = s.lastGranted := rfl
@[simp] theorem setClaim_teardownReplies (k : Nat) (r : ClaimRec) : (s.setClaim k r).teardownReplies = s.teardownReplies := rfl
@[simp] theorem setClaim_sessions (k : Nat) (r : ClaimRec) : (s.setClaim k r).sessions = s.sessions := rfl
@[simp] theorem setClaim_ways (k : Nat) (r : ClaimRec) : (s.setClaim k r).ways = s.ways := rfl
@[simp] theorem setClaim_dormant (k : Nat) (r : ClaimRec) : (s.setClaim k r).dormant = s.dormant := rfl
@[simp] theorem setClaim_nextSerial (k : Nat) (r : ClaimRec) : (s.setClaim k r).nextSerial = s.nextSerial := rfl
@[simp] theorem setClaim_now (k : Nat) (r : ClaimRec) : (s.setClaim k r).now = s.now := rfl
@[simp] theorem setClaim_period (k : Nat) (r : ClaimRec) : (s.setClaim k r).period = s.period := rfl
@[simp] theorem setClaim_requestedPeriod (k : Nat) (r : ClaimRec) : (s.setClaim k r).requestedPeriod = s.requestedPeriod := rfl
@[simp] theorem setClaim_interrupts (k : Nat) (r : ClaimRec) : (s.setClaim k r).interrupts = s.interrupts := rfl
@[simp] theorem setClaim_choices (k : Nat) (r : ClaimRec) : (s.setClaim k r).choices = s.choices := rfl
@[simp] theorem setClaim_pending (k : Nat) (r : ClaimRec) : (s.setClaim k r).pending = s.pending := rfl

@[simp] theorem chan_setClaim (k : Nat) (r : ClaimRec) (m : Nat) : (s.setClaim k r).chan m = s.chan m := rfl
@[simp] theorem session_setClaim (k : Nat) (r : ClaimRec) (m : Nat) : (s.setClaim k r).session m = s.session m := rfl
@[simp] theorem claim_setClaim (k : Nat) (r : ClaimRec) (m : Nat) :
    (s.setClaim k r).claim m = if m = k then r else s.claim m := Table.get_set ..
@[simp] theorem way_setClaim (k : Nat) (r : ClaimRec) (m : Nat) : (s.setClaim k r).way m = s.way m := rfl
@[simp] theorem dormantOrder_setClaim (k : Nat) (r : ClaimRec) (m : Nat) : (s.setClaim k r).dormantOrder m = s.dormantOrder m := rfl
@[simp] theorem entry_setClaim (k : Nat) (r : ClaimRec) (m : Nat) : (s.setClaim k r).entry m = s.entry m := rfl
@[simp] theorem sessionHandle_setClaim (k : Nat) (r : ClaimRec) (m : Nat) : (s.setClaim k r).sessionHandle m = s.sessionHandle m := rfl
@[simp] theorem claimAt_setClaim (k : Nat) (r : ClaimRec) (m : Nat) :
    (s.setClaim k r).claimAt m = if m = k then r.claim else s.claimAt m := by
  unfold claimAt
  rw [claim_setClaim]
  split <;> rfl

/-! ### setWay -/

@[simp] theorem setWay_ready (w : Nat) (x : Way) : (s.setWay w x).ready = s.ready := rfl
@[simp] theorem setWay_mgmt (w : Nat) (x : Way) : (s.setWay w x).mgmt = s.mgmt := rfl
@[simp] theorem setWay_channels (w : Nat) (x : Way) : (s.setWay w x).channels = s.channels := rfl
@[simp] theorem setWay_lastGranted (w : Nat) (x : Way) : (s.setWay w x).lastGranted = s.lastGranted := rfl
@[simp] theorem setWay_teardownReplies (w : Nat) (x : Way) : (s.setWay w x).teardownReplies = s.teardownReplies := rfl
@[simp] theorem setWay_sessions (w : Nat) (x : Way) : (s.setWay w x).sessions = s.sessions := rfl
@[simp] theorem setWay_claims (w : Nat) (x : Way) : (s.setWay w x).claims = s.claims := rfl
@[simp] theorem setWay_dormant (w : Nat) (x : Way) : (s.setWay w x).dormant = s.dormant := rfl
@[simp] theorem setWay_nextSerial (w : Nat) (x : Way) : (s.setWay w x).nextSerial = s.nextSerial := rfl
@[simp] theorem setWay_now (w : Nat) (x : Way) : (s.setWay w x).now = s.now := rfl
@[simp] theorem setWay_period (w : Nat) (x : Way) : (s.setWay w x).period = s.period := rfl
@[simp] theorem setWay_requestedPeriod (w : Nat) (x : Way) : (s.setWay w x).requestedPeriod = s.requestedPeriod := rfl
@[simp] theorem setWay_interrupts (w : Nat) (x : Way) : (s.setWay w x).interrupts = s.interrupts := rfl
@[simp] theorem setWay_choices (w : Nat) (x : Way) : (s.setWay w x).choices = s.choices := rfl
@[simp] theorem setWay_pending (w : Nat) (x : Way) : (s.setWay w x).pending = s.pending := rfl

@[simp] theorem chan_setWay (w : Nat) (x : Way) (m : Nat) : (s.setWay w x).chan m = s.chan m := rfl
@[simp] theorem session_setWay (w : Nat) (x : Way) (m : Nat) : (s.setWay w x).session m = s.session m := rfl
@[simp] theorem claim_setWay (w : Nat) (x : Way) (m : Nat) : (s.setWay w x).claim m = s.claim m := rfl
@[simp] theorem way_setWay (w : Nat) (x : Way) (m : Nat) :
    (s.setWay w x).way m = if m = w then x else s.way m := Table.get_set ..
@[simp] theorem dormantOrder_setWay (w : Nat) (x : Way) (m : Nat) : (s.setWay w x).dormantOrder m = s.dormantOrder m := rfl
@[simp] theorem claimAt_setWay (w : Nat) (x : Way) (m : Nat) : (s.setWay w x).claimAt m = s.claimAt m := rfl
@[simp] theorem heldMode_setWay (w : Nat) (x : Way) (m : Nat) : (s.setWay w x).heldMode m = s.heldMode m := rfl
@[simp] theorem wantedMode_setWay (w : Nat) (x : Way) (m : Nat) : (s.setWay w x).wantedMode m = s.wantedMode m := rfl
@[simp] theorem claimHandle_setWay (w : Nat) (x : Way) (m : Nat) : (s.setWay w x).claimHandle m = s.claimHandle m := rfl
@[simp] theorem sessionHandle_setWay (w : Nat) (x : Way) (m : Nat) : (s.setWay w x).sessionHandle m = s.sessionHandle m := rfl
@[simp] theorem entry_setWay (w : Nat) (x : Way) (m : Nat) :
    (s.setWay w x).entry m = if m = w then x.entry else s.entry m := by
  unfold entry
  rw [way_setWay]
  split <;> rfl

/-! ### setDormant -/

@[simp] theorem setDormant_ready (b : Nat) (l : List Nat) : (s.setDormant b l).ready = s.ready := rfl
@[simp] theorem setDormant_mgmt (b : Nat) (l : List Nat) : (s.setDormant b l).mgmt = s.mgmt := rfl
@[simp] theorem setDormant_channels (b : Nat) (l : List Nat) : (s.setDormant b l).channels = s.channels := rfl
@[simp] theorem setDormant_lastGranted (b : Nat) (l : List Nat) : (s.setDormant b l).lastGranted = s.lastGranted := rfl
@[simp] theorem setDormant_teardownReplies (b : Nat) (l : List Nat) : (s.setDormant b l).teardownReplies = s.teardownReplies := rfl
@[simp] theorem setDormant_sessions (b : Nat) (l : List Nat) : (s.setDormant b l).sessions = s.sessions := rfl
@[simp] theorem setDormant_claims (b : Nat) (l : List Nat) : (s.setDormant b l).claims = s.claims := rfl
@[simp] theorem setDormant_ways (b : Nat) (l : List Nat) : (s.setDormant b l).ways = s.ways := rfl
@[simp] theorem setDormant_nextSerial (b : Nat) (l : List Nat) : (s.setDormant b l).nextSerial = s.nextSerial := rfl
@[simp] theorem setDormant_now (b : Nat) (l : List Nat) : (s.setDormant b l).now = s.now := rfl
@[simp] theorem setDormant_period (b : Nat) (l : List Nat) : (s.setDormant b l).period = s.period := rfl
@[simp] theorem setDormant_requestedPeriod (b : Nat) (l : List Nat) : (s.setDormant b l).requestedPeriod = s.requestedPeriod := rfl
@[simp] theorem setDormant_interrupts (b : Nat) (l : List Nat) : (s.setDormant b l).interrupts = s.interrupts := rfl
@[simp] theorem setDormant_choices (b : Nat) (l : List Nat) : (s.setDormant b l).choices = s.choices := rfl
@[simp] theorem setDormant_pending (b : Nat) (l : List Nat) : (s.setDormant b l).pending = s.pending := rfl

@[simp] theorem chan_setDormant (b : Nat) (l : List Nat) (m : Nat) : (s.setDormant b l).chan m = s.chan m := rfl
@[simp] theorem session_setDormant (b : Nat) (l : List Nat) (m : Nat) : (s.setDormant b l).session m = s.session m := rfl
@[simp] theorem claim_setDormant (b : Nat) (l : List Nat) (m : Nat) : (s.setDormant b l).claim m = s.claim m := rfl
@[simp] theorem way_setDormant (b : Nat) (l : List Nat) (m : Nat) : (s.setDormant b l).way m = s.way m := rfl
@[simp] theorem dormantOrder_setDormant (b : Nat) (l : List Nat) (m : Nat) :
    (s.setDormant b l).dormantOrder m = if m = b then l else s.dormantOrder m := Table.get_set ..
@[simp] theorem entry_setDormant (b : Nat) (l : List Nat) (m : Nat) : (s.setDormant b l).entry m = s.entry m := rfl
@[simp] theorem claimAt_setDormant (b : Nat) (l : List Nat) (m : Nat) : (s.setDormant b l).claimAt m = s.claimAt m := rfl
@[simp] theorem heldMode_setDormant (b : Nat) (l : List Nat) (m : Nat) : (s.setDormant b l).heldMode m = s.heldMode m := rfl
@[simp] theorem wantedMode_setDormant (b : Nat) (l : List Nat) (m : Nat) : (s.setDormant b l).wantedMode m = s.wantedMode m := rfl
@[simp] theorem claimHandle_setDormant (b : Nat) (l : List Nat) (m : Nat) : (s.setDormant b l).claimHandle m = s.claimHandle m := rfl
@[simp] theorem sessionHandle_setDormant (b : Nat) (l : List Nat) (m : Nat) : (s.setDormant b l).sessionHandle m = s.sessionHandle m := rfl

end Sys2Proof.Machine.State
end

