-- ==== Sys2Proof/Laws/Ops.lean ====
section
/-! SUPPORT. What each shared operation can change: one frame lemma for each (every field of State not named on its right
side is as it was), and what the small operations leave in the records they change. -/

namespace Sys2Proof.Machine.State

variable (s : State)

/-! ### Frames of the operations over rings -/

theorem hand_frame (ch : Nat) (r : Reply) : s.hand ch r = { s with channels := (s.hand ch r).channels } := by
  unfold hand; split <;> rfl

theorem reply_frame (ch : Nat) (k : Kind) (tag : ReqTag) (st : Status) :
    s.reply ch k tag st = { s with channels := (s.reply ch k tag st).channels } := s.hand_frame ..

theorem handClaim_frame (c : Nat) (r : Reply) :
    s.handClaim c r = { s with channels := (s.handClaim c r).channels } := by
  unfold handClaim; split
  · exact s.hand_frame ..
  · rfl

theorem sendInterrupt_frame (ch : Nat) :
    s.sendInterrupt ch = { s with interrupts := (s.sendInterrupt ch).interrupts } := by
  unfold sendInterrupt; split <;> rfl

theorem markLapse_frame (n : Notice) (b : Bool) :
    s.markLapse n b = { s with sessions := (s.markLapse n b).sessions } := by
  unfold markLapse; split
  · split <;> rfl
  · rfl
  · rfl

theorem raise_frame (ch : Nat) (n : Notice) :
    s.raise ch n = { s with channels := (s.raise ch n).channels, sessions := (s.raise ch n).sessions } := by
  unfold raise; dsimp only; split
  · split
    · rfl
    · rw [markLapse_frame]; rfl
  · rfl

theorem dropNotices_frame (ch : Nat) (p : Notice → Bool) :
    s.dropNotices ch p = { s with channels := (s.dropNotices ch p).channels } := rfl

theorem dropContention_frame (c : Nat) :
    s.dropContention c = { s with channels := (s.dropContention c).channels } := by
  unfold dropContention; split <;> rfl

/-! ### Frames of the operations over claims, sessions and entries -/

theorem modClaim_frame (c : Nat) (f : Claim → Claim) : s.modClaim c f = { s with claims := (s.modClaim c f).claims } := by
  unfold modClaim; split <;> rfl

theorem modOpen_frame (i : Nat) (f : OpenSession → OpenSession) :
    s.modOpen i f = { s with sessions := (s.modOpen i f).sessions } := by
  unfold modOpen; split <;> rfl

theorem modEntry_frame (w : Nat) (f : Entry → Entry) : s.modEntry w f = { s with ways := (s.modEntry w f).ways } := by
  unfold modEntry; split <;> rfl

theorem clearNoticed_frame (c : Nat) : s.clearNoticed c =
    { s with channels := (s.clearNoticed c).channels, claims := (s.clearNoticed c).claims } := by
  unfold clearNoticed; rw [dropContention_frame, modClaim_frame]

theorem freeClaim_frame (c : Nat) : s.freeClaim c =
    { s with channels := (s.freeClaim c).channels, sessions := (s.freeClaim c).sessions,
             claims := (s.freeClaim c).claims, ways := (s.freeClaim c).ways } := by
  unfold freeClaim; split
  · unfold setClaim; rw [modOpen_frame, modEntry_frame, dropContention_frame]
  · rfl

theorem allocate_frame (c i w : Nat) (st : ClaimState) : s.allocate c i w st =
    { s with sessions := (s.allocate c i w st).sessions, claims := (s.allocate c i w st).claims,
             ways := (s.allocate c i w st).ways, choices := s.choices + 1 } := by
  unfold allocate; dsimp only; rw [modEntry_frame, modOpen_frame]; rfl

theorem renew_frame (i : Nat) : s.renew i = { s with sessions := (s.renew i).sessions } := s.modOpen_frame ..

theorem freeSession_frame (i : Nat) : s.freeSession i = { s with sessions := (s.freeSession i).sessions } := rfl

/-! ### Frames of the lease core -/

theorem draw_frame (c w : Nat) : s.draw c w =
    { s with claims := (s.draw c w).claims, ways := (s.draw c w).ways, nextSerial := (s.draw c w).nextSerial } := by
  unfold draw; split
  · rw [modEntry_frame, modClaim_frame]
  · rfl

theorem hold_frame (c w : Nat) (m : Mode) : s.hold c w m =
    { s with claims := (s.hold c w m).claims, ways := (s.hold c w m).ways, nextSerial := (s.hold c w m).nextSerial } := by
  unfold hold; dsimp only; split
  · rw [draw_frame, modClaim_frame]
  · rw [modClaim_frame]

theorem grant_frame (k : Kind) (tag : ReqTag) (c w : Nat) (m : Mode) : s.grant k tag c w m =
    { s with channels := (s.grant k tag c w m).channels, claims := (s.grant k tag c w m).claims,
             ways := (s.grant k tag c w m).ways, nextSerial := (s.grant k tag c w m).nextSerial } := by
  unfold grant; dsimp only; rw [handClaim_frame, hold_frame]

theorem endConversion_frame (c : Nat) : s.endConversion c =
    { s with claims := (s.endConversion c).claims, ways := (s.endConversion c).ways } := by
  unfold endConversion; split
  · split
    · rw [modClaim_frame, modEntry_frame]
    · rfl
    · rfl
  · rfl

theorem answer_frame (c : Nat) (st : Status) (full : Bool) :
    s.answer c st full = { s with channels := (s.answer c st full).channels } := by
  unfold answer; split
  · split
    · exact s.handClaim_frame ..
    · exact s.handClaim_frame ..
    · rfl
  · rfl

theorem endWait_frame (c : Nat) (st : Status) : s.endWait c st =
    { s with channels := (s.endWait c st).channels, sessions := (s.endWait c st).sessions,
             claims := (s.endWait c st).claims, ways := (s.endWait c st).ways } := by
  unfold endWait; split
  · split
    · rw [freeClaim_frame, answer_frame]
    · rw [endConversion_frame, answer_frame]
    · rfl
  · rfl

theorem settle_frame (w : Nat) :
    s.settle w = { s with ways := (s.settle w).ways, dormant := (s.settle w).dormant } := by
  unfold settle; split
  · split
    · split <;> rfl
    · rfl
  · rfl
  · rfl

theorem leaveDormant_frame (w : Nat) (x : Way) :
    s.leaveDormant w x = { s with ways := (s.leaveDormant w x).ways, dormant := (s.leaveDormant w x).dormant } := rfl

theorem createAt_frame (w : Nat) (k : Key) : s.createAt w k = { s with ways := (s.createAt w k).ways } := rfl

/-- The way of a key is found, made ACTIVE again or made: nothing but ways and dormant orders changes. -/
theorem place_frame {k : Key} {w : Nat} {t : State} (h : s.place k = some (w, t)) :
    t = { s with ways := t.ways, dormant := t.dormant } := by
  unfold place at h
  repeat' split at h
  all_goals first | cases h; rfl | cases h

/-! ### What the small operations leave -/

theorem claimAt_modClaim (c k : Nat) (f : Claim → Claim) :
    (s.modClaim c f).claimAt k = if k = c then (s.claimAt c).map f else s.claimAt k := by
  unfold modClaim
  split
  · rename_i b hb
    rw [claimAt_setClaim]; simp [hb]
  · rename_i hb
    split
    · subst_vars; simp [hb]
    · rfl

theorem claim_tag_modClaim (c k : Nat) (f : Claim → Claim) : ((s.modClaim c f).claim k).tag = (s.claim k).tag := by
  unfold modClaim
  split
  · rw [claim_setClaim]; split <;> simp_all
  · rfl

theorem way_modEntry (w k : Nat) (f : Entry → Entry) : (s.modEntry w f).way k =
    if k = w then match s.way w with
      | .active e => .active (f e)
      | .free => .free
      | .dormant e => .dormant e
    else s.way k := by
  unfold modEntry
  cases h : s.way w <;> by_cases hk : k = w <;> simp [hk, h]

theorem session_modOpen (i k : Nat) (f : OpenSession → OpenSession) : (s.modOpen i f).session k =
    if k = i then match (s.session i).state with
      | .opened o => ⟨(s.session i).tag, .opened (f o)⟩
      | .free => s.session i
      | .lapsed _ => s.session i
    else s.session k := by
  unfold modOpen
  cases h : (s.session i).state <;> by_cases hk : k = i <;> simp [hk, h]

/-- A reply is written into its reservation on an ACTIVE channel and dropped on another (R130). -/
theorem chan_hand (ch n : Nat) (r : Reply) : (s.hand ch r).chan n =
    if n = ch ∧ (s.chan ch).state = .active then { (s.chan ch).issue r.bytes with owed := (s.chan ch).owed - 1 }
    else s.chan n := by
  unfold hand
  split
  · rw [chan_setChan]; simp_all
  · simp_all

theorem chan_dropNotices (ch n : Nat) (p : Notice → Bool) : (s.dropNotices ch p).chan n =
    if n = ch then { s.chan ch with notices := (s.chan ch).notices.filter fun x => !p x } else s.chan n := by
  unfold dropNotices
  rw [chan_setChan]

theorem claims_clearNoticed (c : Nat) : (s.clearNoticed c).claims = (s.modClaim c fun b => { b with noticed := false }).claims := by
  unfold clearNoticed
  rw [dropContention_frame]

end Sys2Proof.Machine.State
end

