-- ==== Sys2Proof/Laws/Fields.lean ====
section
/-! SUPPORT. The frame lemmas of Laws/Ops.lean read field by field: what each shared operation leaves as it was. -/

namespace Sys2Proof.Machine.State

variable (s : State)

/-! ### hand -/

@[simp] theorem hand_ready (ch : Nat) (r : Reply) : (s.hand ch r).ready = s.ready := by rw [hand_frame]
@[simp] theorem hand_mgmt (ch : Nat) (r : Reply) : (s.hand ch r).mgmt = s.mgmt := by rw [hand_frame]
@[simp] theorem hand_lastGranted (ch : Nat) (r : Reply) : (s.hand ch r).lastGranted = s.lastGranted := by rw [hand_frame]
@[simp] theorem hand_teardownReplies (ch : Nat) (r : Reply) : (s.hand ch r).teardownReplies = s.teardownReplies := by rw [hand_frame]
@[simp] theorem hand_sessions (ch : Nat) (r : Reply) : (s.hand ch r).sessions = s.sessions := by rw [hand_frame]
@[simp] theorem hand_claims (ch : Nat) (r : Reply) : (s.hand ch r).claims = s.claims := by rw [hand_frame]
@[simp] theorem hand_ways (ch : Nat) (r : Reply) : (s.hand ch r).ways = s.ways := by rw [hand_frame]
@[simp] theorem hand_dormant (ch : Nat) (r : Reply) : (s.hand ch r).dormant = s.dormant := by rw [hand_frame]
@[simp] theorem hand_nextSerial (ch : Nat) (r : Reply) : (s.hand ch r).nextSerial = s.nextSerial := by rw [hand_frame]
@[simp] theorem hand_now (ch : Nat) (r : Reply) : (s.hand ch r).now = s.now := by rw [hand_frame]
@[simp] theorem hand_period (ch : Nat) (r : Reply) : (s.hand ch r).period = s.period := by rw [hand_frame]
@[simp] theorem hand_requestedPeriod (ch : Nat) (r : Reply) : (s.hand ch r).requestedPeriod = s.requestedPeriod := by rw [hand_frame]
@[simp] theorem hand_interrupts (ch : Nat) (r : Reply) : (s.hand ch r).interrupts = s.interrupts := by rw [hand_frame]
@[simp] theorem hand_choices (ch : Nat) (r : Reply) : (s.hand ch r).choices = s.choices := by rw [hand_frame]
@[simp] theorem hand_pending (ch : Nat) (r : Reply) : (s.hand ch r).pending = s.pending := by rw [hand_frame]
@[simp] theorem session_hand (ch : Nat) (r : Reply) (k : Nat) : (s.hand ch r).session k = s.session k := by rw [hand_frame]; rfl
@[simp] theorem sessionHandle_hand (ch : Nat) (r : Reply) (k : Nat) : (s.hand ch r).sessionHandle k = s.sessionHandle k := by rw [hand_frame]; rfl
@[simp] theorem claim_hand (ch : Nat) (r : Reply) (k : Nat) : (s.hand ch r).claim k = s.claim k := by rw [hand_frame]; rfl
@[simp] theorem claimAt_hand (ch : Nat) (r : Reply) (k : Nat) : (s.hand ch r).claimAt k = s.claimAt k := by rw [hand_frame]; rfl
@[simp] theorem heldMode_hand (ch : Nat) (r : Reply) (k : Nat) : (s.hand ch r).heldMode k = s.heldMode k := by rw [hand_frame]; rfl
@[simp] theorem wantedMode_hand (ch : Nat) (r : Reply) (k : Nat) : (s.hand ch r).wantedMode k = s.wantedMode k := by rw [hand_frame]; rfl
@[simp] theorem claimHandle_hand (ch : Nat) (r : Reply) (k : Nat) : (s.hand ch r).claimHandle k = s.claimHandle k := by rw [hand_frame]; rfl
@[simp] theorem way_hand (ch : Nat) (r : Reply) (k : Nat) : (s.hand ch r).way k = s.way k := by rw [hand_frame]; rfl
@[simp] theorem entry_hand (ch : Nat) (r : Reply) (k : Nat) : (s.hand ch r).entry k = s.entry k := by rw [hand_frame]; rfl
@[simp] theorem dormantOrder_hand (ch : Nat) (r : Reply) (k : Nat) : (s.hand ch r).dormantOrder k = s.dormantOrder k := by rw [hand_frame]; rfl

/-! ### dropNotices -/

@[simp] theorem dropNotices_ready (ch : Nat) (p : Notice → Bool) : (s.dropNotices ch p).ready = s.ready := rfl
@[simp] theorem dropNotices_mgmt (ch : Nat) (p : Notice → Bool) : (s.dropNotices ch p).mgmt = s.mgmt := rfl
@[simp] theorem dropNotices_lastGranted (ch : Nat) (p : Notice → Bool) : (s.dropNotices ch p).lastGranted = s.lastGranted := rfl
@[simp] theorem dropNotices_teardownReplies (ch : Nat) (p : Notice → Bool) : (s.dropNotices ch p).teardownReplies = s.teardownReplies := rfl
@[simp] theorem dropNotices_sessions (ch : Nat) (p : Notice → Bool) : (s.dropNotices ch p).sessions = s.sessions := rfl
@[simp] theorem dropNotices_claims (ch : Nat) (p : Notice → Bool) : (s.dropNotices ch p).claims = s.claims := rfl
@[simp] theorem dropNotices_ways (ch : Nat) (p : Notice → Bool) : (s.dropNotices ch p).ways = s.ways := rfl
@[simp] theorem dropNotices_dormant (ch : Nat) (p : Notice → Bool) : (s.dropNotices ch p).dormant = s.dormant := rfl
@[simp] theorem dropNotices_nextSerial (ch : Nat) (p : Notice → Bool) : (s.dropNotices ch p).nextSerial = s.nextSerial := rfl
@[simp] theorem dropNotices_now (ch : Nat) (p : Notice → Bool) : (s.dropNotices ch p).now = s.now := rfl
@[simp] theorem dropNotices_period (ch : Nat) (p : Notice → Bool) : (s.dropNotices ch p).period = s.period := rfl
@[simp] theorem dropNotices_requestedPeriod (ch : Nat) (p : Notice → Bool) : (s.dropNotices ch p).requestedPeriod = s.requestedPeriod := rfl
@[simp] theorem dropNotices_interrupts (ch : Nat) (p : Notice → Bool) : (s.dropNotices ch p).interrupts = s.interrupts := rfl
@[simp] theorem dropNotices_choices (ch : Nat) (p : Notice → Bool) : (s.dropNotices ch p).choices = s.choices := rfl
@[simp] theorem dropNotices_pending (ch : Nat) (p : Notice → Bool) : (s.dropNotices ch p).pending = s.pending := rfl
@[simp] theorem session_dropNotices (ch : Nat) (p : Notice → Bool) (k : Nat) : (s.dropNotices ch p).session k = s.session k := rfl
@[simp] theorem sessionHandle_dropNotices (ch : Nat) (p : Notice → Bool) (k : Nat) : (s.dropNotices ch p).sessionHandle k = s.sessionHandle k := rfl
@[simp] theorem claim_dropNotices (ch : Nat) (p : Notice → Bool) (k : Nat) : (s.dropNotices ch p).claim k = s.claim k := rfl
@[simp] theorem claimAt_dropNotices (ch : Nat) (p : Notice → Bool) (k : Nat) : (s.dropNotices ch p).claimAt k = s.claimAt k := rfl
@[simp] theorem heldMode_dropNotices (ch : Nat) (p : Notice → Bool) (k : Nat) : (s.dropNotices ch p).heldMode k = s.heldMode k := rfl
@[simp] theorem wantedMode_dropNotices (ch : Nat) (p : Notice → Bool) (k : Nat) : (s.dropNotices ch p).wantedMode k = s.wantedMode k := rfl
@[simp] theorem claimHandle_dropNotices (ch : Nat) (p : Notice → Bool) (k : Nat) : (s.dropNotices ch p).claimHandle k = s.claimHandle k := rfl
@[simp] theorem way_dropNotices (ch : Nat) (p : Notice → Bool) (k : Nat) : (s.dropNotices ch p).way k = s.way k := rfl
@[simp] theorem entry_dropNotices (ch : Nat) (p : Notice → Bool) (k : Nat) : (s.dropNotices ch p).entry k = s.entry k := rfl
@[simp] theorem dormantOrder_dropNotices (ch : Nat) (p : Notice → Bool) (k : Nat) : (s.dropNotices ch p).dormantOrder k = s.dormantOrder k := rfl

/-! ### disarm -/

@[simp] theorem disarm_ready (ch : Nat) : (s.disarm ch).ready = s.ready := rfl
@[simp] theorem disarm_mgmt (ch : Nat) : (s.disarm ch).mgmt = s.mgmt := rfl
@[simp] theorem disarm_lastGranted (ch : Nat) : (s.disarm ch).lastGranted = s.lastGranted := rfl
@[simp] theorem disarm_teardownReplies (ch : Nat) : (s.disarm ch).teardownReplies = s.teardownReplies := rfl
@[simp] theorem disarm_sessions (ch : Nat) : (s.disarm ch).sessions = s.sessions := rfl
@[simp] theorem disarm_claims (ch : Nat) : (s.disarm ch).claims = s.claims := rfl
@[simp] theorem disarm_ways (ch : Nat) : (s.disarm ch).ways = s.ways := rfl
@[simp] theorem disarm_dormant (ch : Nat) : (s.disarm ch).dormant = s.dormant := rfl
@[simp] theorem disarm_nextSerial (ch : Nat) : (s.disarm ch).nextSerial = s.nextSerial := rfl
@[simp] theorem disarm_now (ch : Nat) : (s.disarm ch).now = s.now := rfl
@[simp] theorem disarm_period (ch : Nat) : (s.disarm ch).period = s.period := rfl
@[simp] theorem disarm_requestedPeriod (ch : Nat) : (s.disarm ch).requestedPeriod = s.requestedPeriod := rfl
@[simp] theorem disarm_interrupts (ch : Nat) : (s.disarm ch).interrupts = s.interrupts := rfl
@[simp] theorem disarm_choices (ch : Nat) : (s.disarm ch).choices = s.choices := rfl
@[simp] theorem disarm_pending (ch : Nat) : (s.disarm ch).pending = s.pending := rfl
@[simp] theorem session_disarm (ch : Nat) (k : Nat) : (s.disarm ch).session k = s.session k := rfl
@[simp] theorem sessionHandle_disarm (ch : Nat) (k : Nat) : (s.disarm ch).sessionHandle k = s.sessionHandle k := rfl
@[simp] theorem claim_disarm (ch : Nat) (k : Nat) : (s.disarm ch).claim k = s.claim k := rfl
@[simp] theorem claimAt_disarm (ch : Nat) (k : Nat) : (s.disarm ch).claimAt k = s.claimAt k := rfl
@[simp] theorem heldMode_disarm (ch : Nat) (k : Nat) : (s.disarm ch).heldMode k = s.heldMode k := rfl
@[simp] theorem wantedMode_disarm (ch : Nat) (k : Nat) : (s.disarm ch).wantedMode k = s.wantedMode k := rfl
@[simp] theorem claimHandle_disarm (ch : Nat) (k : Nat) : (s.disarm ch).claimHandle k = s.claimHandle k := rfl
@[simp] theorem way_disarm (ch : Nat) (k : Nat) : (s.disarm ch).way k = s.way k := rfl
@[simp] theorem entry_disarm (ch : Nat) (k : Nat) : (s.disarm ch).entry k = s.entry k := rfl
@[simp] theorem dormantOrder_disarm (ch : Nat) (k : Nat) : (s.disarm ch).dormantOrder k = s.dormantOrder k := rfl

/-! ### popRequest -/

@[simp] theorem popRequest_ready (ch : Nat) : (s.popRequest ch).ready = s.ready := rfl
@[simp] theorem popRequest_mgmt (ch : Nat) : (s.popRequest ch).mgmt = s.mgmt := rfl
@[simp] theorem popRequest_lastGranted (ch : Nat) : (s.popRequest ch).lastGranted = s.lastGranted := rfl
@[simp] theorem popRequest_teardownReplies (ch : Nat) : (s.popRequest ch).teardownReplies = s.teardownReplies := rfl
@[simp] theorem popRequest_sessions (ch : Nat) : (s.popRequest ch).sessions = s.sessions := rfl
@[simp] theorem popRequest_claims (ch : Nat) : (s.popRequest ch).claims = s.claims := rfl
@[simp] theorem popRequest_ways (ch : Nat) : (s.popRequest ch).ways = s.ways := rfl
@[simp] theorem popRequest_dormant (ch : Nat) : (s.popRequest ch).dormant = s.dormant := rfl
@[simp] theorem popRequest_nextSerial (ch : Nat) : (s.popRequest ch).nextSerial = s.nextSerial := rfl
@[simp] theorem popRequest_now (ch : Nat) : (s.popRequest ch).now = s.now := rfl
@[simp] theorem popRequest_period (ch : Nat) : (s.popRequest ch).period = s.period := rfl
@[simp] theorem popRequest_requestedPeriod (ch : Nat) : (s.popRequest ch).requestedPeriod = s.requestedPeriod := rfl
@[simp] theorem popRequest_interrupts (ch : Nat) : (s.popRequest ch).interrupts = s.interrupts := rfl
@[simp] theorem popRequest_choices (ch : Nat) : (s.popRequest ch).choices = s.choices := rfl
@[simp] theorem popRequest_pending (ch : Nat) : (s.popRequest ch).pending = s.pending := rfl
@[simp] theorem session_popRequest (ch : Nat) (k : Nat) : (s.popRequest ch).session k = s.session k := rfl
@[simp] theorem sessionHandle_popRequest (ch : Nat) (k : Nat) : (s.popRequest ch).sessionHandle k = s.sessionHandle k := rfl
@[simp] theorem claim_popRequest (ch : Nat) (k : Nat) : (s.popRequest ch).claim k = s.claim k := rfl
@[simp] theorem claimAt_popRequest (ch : Nat) (k : Nat) : (s.popRequest ch).claimAt k = s.claimAt k := rfl
@[simp] theorem heldMode_popRequest (ch : Nat) (k : Nat) : (s.popRequest ch).heldMode k = s.heldMode k := rfl
@[simp] theorem wantedMode_popRequest (ch : Nat) (k : Nat) : (s.popRequest ch).wantedMode k = s.wantedMode k := rfl
@[simp] theorem claimHandle_popRequest (ch : Nat) (k : Nat) : (s.popRequest ch).claimHandle k = s.claimHandle k := rfl
@[simp] theorem way_popRequest (ch : Nat) (k : Nat) : (s.popRequest ch).way k = s.way k := rfl
@[simp] theorem entry_popRequest (ch : Nat) (k : Nat) : (s.popRequest ch).entry k = s.entry k := rfl
@[simp] theorem dormantOrder_popRequest (ch : Nat) (k : Nat) : (s.popRequest ch).dormantOrder k = s.dormantOrder k := rfl

/-! ### popWrite -/

@[simp] theorem popWrite_ready (ch : Nat) : (s.popWrite ch).ready = s.ready := rfl
@[simp] theorem popWrite_mgmt (ch : Nat) : (s.popWrite ch).mgmt = s.mgmt := rfl
@[simp] theorem popWrite_lastGranted (ch : Nat) : (s.popWrite ch).lastGranted = s.lastGranted := rfl
@[simp] theorem popWrite_teardownReplies (ch : Nat) : (s.popWrite ch).teardownReplies = s.teardownReplies := rfl
@[simp] theorem popWrite_sessions (ch : Nat) : (s.popWrite ch).sessions = s.sessions := rfl
@[simp] theorem popWrite_claims (ch : Nat) : (s.popWrite ch).claims = s.claims := rfl
@[simp] theorem popWrite_ways (ch : Nat) : (s.popWrite ch).ways = s.ways := rfl
@[simp] theorem popWrite_dormant (ch : Nat) : (s.popWrite ch).dormant = s.dormant := rfl
@[simp] theorem popWrite_nextSerial (ch : Nat) : (s.popWrite ch).nextSerial = s.nextSerial := rfl
@[simp] theorem popWrite_now (ch : Nat) : (s.popWrite ch).now = s.now := rfl
@[simp] theorem popWrite_period (ch : Nat) : (s.popWrite ch).period = s.period := rfl
@[simp] theorem popWrite_requestedPeriod (ch : Nat) : (s.popWrite ch).requestedPeriod = s.requestedPeriod := rfl
@[simp] theorem popWrite_interrupts (ch : Nat) : (s.popWrite ch).interrupts = s.interrupts := rfl
@[simp] theorem popWrite_choices (ch : Nat) : (s.popWrite ch).choices = s.choices := rfl
@[simp] theorem popWrite_pending (ch : Nat) : (s.popWrite ch).pending = s.pending := rfl
@[simp] theorem session_popWrite (ch : Nat) (k : Nat) : (s.popWrite ch).session k = s.session k := rfl
@[simp] theorem sessionHandle_popWrite (ch : Nat) (k : Nat) : (s.popWrite ch).sessionHandle k = s.sessionHandle k := rfl
@[simp] theorem claim_popWrite (ch : Nat) (k : Nat) : (s.popWrite ch).claim k = s.claim k := rfl
@[simp] theorem claimAt_popWrite (ch : Nat) (k : Nat) : (s.popWrite ch).claimAt k = s.claimAt k := rfl
@[simp] theorem heldMode_popWrite (ch : Nat) (k : Nat) : (s.popWrite ch).heldMode k = s.heldMode k := rfl
@[simp] theorem wantedMode_popWrite (ch : Nat) (k : Nat) : (s.popWrite ch).wantedMode k = s.wantedMode k := rfl
@[simp] theorem claimHandle_popWrite (ch : Nat) (k : Nat) : (s.popWrite ch).claimHandle k = s.claimHandle k := rfl
@[simp] theorem way_popWrite (ch : Nat) (k : Nat) : (s.popWrite ch).way k = s.way k := rfl
@[simp] theorem entry_popWrite (ch : Nat) (k : Nat) : (s.popWrite ch).entry k = s.entry k := rfl
@[simp] theorem dormantOrder_popWrite (ch : Nat) (k : Nat) : (s.popWrite ch).dormantOrder k = s.dormantOrder k := rfl

/-! ### completeFetch -/

@[simp] theorem completeFetch_ready (ch : Fin 16) (count : Nat) (es : List RingEntry) : (s.completeFetch ch count es).ready = s.ready := rfl
@[simp] theorem completeFetch_mgmt (ch : Fin 16) (count : Nat) (es : List RingEntry) : (s.completeFetch ch count es).mgmt = s.mgmt := rfl
@[simp] theorem completeFetch_lastGranted (ch : Fin 16) (count : Nat) (es : List RingEntry) : (s.completeFetch ch count es).lastGranted = s.lastGranted := rfl
@[simp] theorem completeFetch_teardownReplies (ch : Fin 16) (count : Nat) (es : List RingEntry) : (s.completeFetch ch count es).teardownReplies = s.teardownReplies := rfl
@[simp] theorem completeFetch_sessions (ch : Fin 16) (count : Nat) (es : List RingEntry) : (s.completeFetch ch count es).sessions = s.sessions := rfl
@[simp] theorem completeFetch_claims (ch : Fin 16) (count : Nat) (es : List RingEntry) : (s.completeFetch ch count es).claims = s.claims := rfl
@[simp] theorem completeFetch_ways (ch : Fin 16) (count : Nat) (es : List RingEntry) : (s.completeFetch ch count es).ways = s.ways := rfl
@[simp] theorem completeFetch_dormant (ch : Fin 16) (count : Nat) (es : List RingEntry) : (s.completeFetch ch count es).dormant = s.dormant := rfl
@[simp] theorem completeFetch_nextSerial (ch : Fin 16) (count : Nat) (es : List RingEntry) : (s.completeFetch ch count es).nextSerial = s.nextSerial := rfl
@[simp] theorem completeFetch_now (ch : Fin 16) (count : Nat) (es : List RingEntry) : (s.completeFetch ch count es).now = s.now := rfl
@[simp] theorem completeFetch_period (ch : Fin 16) (count : Nat) (es : List RingEntry) : (s.completeFetch ch count es).period = s.period := rfl
@[simp] theorem completeFetch_requestedPeriod (ch : Fin 16) (count : Nat) (es : List RingEntry) : (s.completeFetch ch count es).requestedPeriod = s.requestedPeriod := rfl
@[simp] theorem completeFetch_interrupts (ch : Fin 16) (count : Nat) (es : List RingEntry) : (s.completeFetch ch count es).interrupts = s.interrupts := rfl
@[simp] theorem completeFetch_choices (ch : Fin 16) (count : Nat) (es : List RingEntry) : (s.completeFetch ch count es).choices = s.choices := rfl
@[simp] theorem completeFetch_pending (ch : Fin 16) (count : Nat) (es : List RingEntry) : (s.completeFetch ch count es).pending = s.pending := rfl
@[simp] theorem session_completeFetch (ch : Fin 16) (count : Nat) (es : List RingEntry) (k : Nat) : (s.completeFetch ch count es).session k = s.session k := rfl
@[simp] theorem sessionHandle_completeFetch (ch : Fin 16) (count : Nat) (es : List RingEntry) (k : Nat) : (s.completeFetch ch count es).sessionHandle k = s.sessionHandle k := rfl
@[simp] theorem claim_completeFetch (ch : Fin 16) (count : Nat) (es : List RingEntry) (k : Nat) : (s.completeFetch ch count es).claim k = s.claim k := rfl
@[simp] theorem claimAt_completeFetch (ch : Fin 16) (count : Nat) (es : List RingEntry) (k : Nat) : (s.completeFetch ch count es).claimAt k = s.claimAt k := rfl
@[simp] theorem heldMode_completeFetch (ch : Fin 16) (count : Nat) (es : List RingEntry) (k : Nat) : (s.completeFetch ch count es).heldMode k = s.heldMode k := rfl
@[simp] theorem wantedMode_completeFetch (ch : Fin 16) (count : Nat) (es : List RingEntry) (k : Nat) : (s.completeFetch ch count es).wantedMode k = s.wantedMode k := rfl
@[simp] theorem claimHandle_completeFetch (ch : Fin 16) (count : Nat) (es : List RingEntry) (k : Nat) : (s.completeFetch ch count es).claimHandle k = s.claimHandle k := rfl
@[simp] theorem way_completeFetch (ch : Fin 16) (count : Nat) (es : List RingEntry) (k : Nat) : (s.completeFetch ch count es).way k = s.way k := rfl
@[simp] theorem entry_completeFetch (ch : Fin 16) (count : Nat) (es : List RingEntry) (k : Nat) : (s.completeFetch ch count es).entry k = s.entry k := rfl
@[simp] theorem dormantOrder_completeFetch (ch : Fin 16) (count : Nat) (es : List RingEntry) (k : Nat) : (s.completeFetch ch count es).dormantOrder k = s.dormantOrder k := rfl

/-! ### startManagement -/

@[simp] theorem startManagement_ready : (s.startManagement).ready = s.ready := rfl
@[simp] theorem startManagement_mgmt : (s.startManagement).mgmt = s.mgmt := rfl
@[simp] theorem startManagement_lastGranted : (s.startManagement).lastGranted = s.lastGranted := rfl
@[simp] theorem startManagement_teardownReplies : (s.startManagement).teardownReplies = s.teardownReplies := rfl
@[simp] theorem startManagement_sessions : (s.startManagement).sessions = s.sessions := rfl
@[simp] theorem startManagement_claims : (s.startManagement).claims = s.claims := rfl
@[simp] theorem startManagement_ways : (s.startManagement).ways = s.ways := rfl
@[simp] theorem startManagement_dormant : (s.startManagement).dormant = s.dormant := rfl
@[simp] theorem startManagement_nextSerial : (s.startManagement).nextSerial = s.nextSerial := rfl
@[simp] theorem startManagement_now : (s.startManagement).now = s.now := rfl
@[simp] theorem startManagement_period : (s.startManagement).period = s.period := rfl
@[simp] theorem startManagement_requestedPeriod : (s.startManagement).requestedPeriod = s.requestedPeriod := rfl
@[simp] theorem startManagement_interrupts : (s.startManagement).interrupts = s.interrupts := rfl
@[simp] theorem startManagement_choices : (s.startManagement).choices = s.choices := rfl
@[simp] theorem startManagement_pending : (s.startManagement).pending = s.pending := rfl
@[simp] theorem session_startManagement (k : Nat) : (s.startManagement).session k = s.session k := rfl
@[simp] theorem sessionHandle_startManagement (k : Nat) : (s.startManagement).sessionHandle k = s.sessionHandle k := rfl
@[simp] theorem claim_startManagement (k : Nat) : (s.startManagement).claim k = s.claim k := rfl
@[simp] theorem claimAt_startManagement (k : Nat) : (s.startManagement).claimAt k = s.claimAt k := rfl
@[simp] theorem heldMode_startManagement (k : Nat) : (s.startManagement).heldMode k = s.heldMode k := rfl
@[simp] theorem wantedMode_startManagement (k : Nat) : (s.startManagement).wantedMode k = s.wantedMode k := rfl
@[simp] theorem claimHandle_startManagement (k : Nat) : (s.startManagement).claimHandle k = s.claimHandle k := rfl
@[simp] theorem way_startManagement (k : Nat) : (s.startManagement).way k = s.way k := rfl
@[simp] theorem entry_startManagement (k : Nat) : (s.startManagement).entry k = s.entry k := rfl
@[simp] theorem dormantOrder_startManagement (k : Nat) : (s.startManagement).dormantOrder k = s.dormantOrder k := rfl

/-! ### issueFetch -/

@[simp] theorem issueFetch_ready (n : Nat) : (s.issueFetch n).ready = s.ready := rfl
@[simp] theorem issueFetch_mgmt (n : Nat) : (s.issueFetch n).mgmt = s.mgmt := rfl
@[simp] theorem issueFetch_teardownReplies (n : Nat) : (s.issueFetch n).teardownReplies = s.teardownReplies := rfl
@[simp] theorem issueFetch_sessions (n : Nat) : (s.issueFetch n).sessions = s.sessions := rfl
@[simp] theorem issueFetch_claims (n : Nat) : (s.issueFetch n).claims = s.claims := rfl
@[simp] theorem issueFetch_ways (n : Nat) : (s.issueFetch n).ways = s.ways := rfl
@[simp] theorem issueFetch_dormant (n : Nat) : (s.issueFetch n).dormant = s.dormant := rfl
@[simp] theorem issueFetch_nextSerial (n : Nat) : (s.issueFetch n).nextSerial = s.nextSerial := rfl
@[simp] theorem issueFetch_now (n : Nat) : (s.issueFetch n).now = s.now := rfl
@[simp] theorem issueFetch_period (n : Nat) : (s.issueFetch n).period = s.period := rfl
@[simp] theorem issueFetch_requestedPeriod (n : Nat) : (s.issueFetch n).requestedPeriod = s.requestedPeriod := rfl
@[simp] theorem issueFetch_interrupts (n : Nat) : (s.issueFetch n).interrupts = s.interrupts := rfl
@[simp] theorem issueFetch_choices (n : Nat) : (s.issueFetch n).choices = s.choices := rfl
@[simp] theorem issueFetch_pending (n : Nat) : (s.issueFetch n).pending = s.pending := rfl
@[simp] theorem session_issueFetch (n : Nat) (k : Nat) : (s.issueFetch n).session k = s.session k := rfl
@[simp] theorem sessionHandle_issueFetch (n : Nat) (k : Nat) : (s.issueFetch n).sessionHandle k = s.sessionHandle k := rfl
@[simp] theorem claim_issueFetch (n : Nat) (k : Nat) : (s.issueFetch n).claim k = s.claim k := rfl
@[simp] theorem claimAt_issueFetch (n : Nat) (k : Nat) : (s.issueFetch n).claimAt k = s.claimAt k := rfl
@[simp] theorem heldMode_issueFetch (n : Nat) (k : Nat) : (s.issueFetch n).heldMode k = s.heldMode k := rfl
@[simp] theorem wantedMode_issueFetch (n : Nat) (k : Nat) : (s.issueFetch n).wantedMode k = s.wantedMode k := rfl
@[simp] theorem claimHandle_issueFetch (n : Nat) (k : Nat) : (s.issueFetch n).claimHandle k = s.claimHandle k := rfl
@[simp] theorem way_issueFetch (n : Nat) (k : Nat) : (s.issueFetch n).way k = s.way k := rfl
@[simp] theorem entry_issueFetch (n : Nat) (k : Nat) : (s.issueFetch n).entry k = s.entry k := rfl
@[simp] theorem dormantOrder_issueFetch (n : Nat) (k : Nat) : (s.issueFetch n).dormantOrder k = s.dormantOrder k := rfl

/-! ### sendInterrupt -/

@[simp] theorem sendInterrupt_ready (ch : Nat) : (s.sendInterrupt ch).ready = s.ready := by rw [sendInterrupt_frame]
@[simp] theorem sendInterrupt_mgmt (ch : Nat) : (s.sendInterrupt ch).mgmt = s.mgmt := by rw [sendInterrupt_frame]
@[simp] theorem sendInterrupt_channels (ch : Nat) : (s.sendInterrupt ch).channels = s.channels := by rw [sendInterrupt_frame]
@[simp] theorem sendInterrupt_lastGranted (ch : Nat) : (s.sendInterrupt ch).lastGranted = s.lastGranted := by rw [sendInterrupt_frame]
@[simp] theorem sendInterrupt_teardownReplies (ch : Nat) : (s.sendInterrupt ch).teardownReplies = s.teardownReplies := by rw [sendInterrupt_frame]
@[simp] theorem sendInterrupt_sessions (ch : Nat) : (s.sendInterrupt ch).sessions = s.sessions := by rw [sendInterrupt_frame]
@[simp] theorem sendInterrupt_claims (ch : Nat) : (s.sendInterrupt ch).claims = s.claims := by rw [sendInterrupt_frame]
@[simp] theorem sendInterrupt_ways (ch : Nat) : (s.sendInterrupt ch).ways = s.ways := by rw [sendInterrupt_frame]
@[simp] theorem sendInterrupt_dormant (ch : Nat) : (s.sendInterrupt ch).dormant = s.dormant := by rw [sendInterrupt_frame]
@[simp] theorem sendInterrupt_nextSerial (ch : Nat) : (s.sendInterrupt ch).nextSerial = s.nextSerial := by rw [sendInterrupt_frame]
@[simp] theorem sendInterrupt_now (ch : Nat) : (s.sendInterrupt ch).now = s.now := by rw [sendInterrupt_frame]
@[simp] theorem sendInterrupt_period (ch : Nat) : (s.sendInterrupt ch).period = s.period := by rw [sendInterrupt_frame]
@[simp] theorem sendInterrupt_requestedPeriod (ch : Nat) : (s.sendInterrupt ch).requestedPeriod = s.requestedPeriod := by rw [sendInterrupt_frame]
@[simp] theorem sendInterrupt_choices (ch : Nat) : (s.sendInterrupt ch).choices = s.choices := by rw [sendInterrupt_frame]
@[simp] theorem sendInterrupt_pending (ch : Nat) : (s.sendInterrupt ch).pending = s.pending := by rw [sendInterrupt_frame]
@[simp] theorem chan_sendInterrupt (ch : Nat) (k : Nat) : (s.sendInterrupt ch).chan k = s.chan k := by rw [sendInterrupt_frame]; rfl
@[simp] theorem session_sendInterrupt (ch : Nat) (k : Nat) : (s.sendInterrupt ch).session k = s.session k := by rw [sendInterrupt_frame]; rfl
@[simp] theorem sessionHandle_sendInterrupt (ch : Nat) (k : Nat) : (s.sendInterrupt ch).sessionHandle k = s.sessionHandle k := by rw [sendInterrupt_frame]; rfl
@[simp] theorem claim_sendInterrupt (ch : Nat) (k : Nat) : (s.sendInterrupt ch).claim k = s.claim k := by rw [sendInterrupt_frame]; rfl
@[simp] theorem claimAt_sendInterrupt (ch : Nat) (k : Nat) : (s.sendInterrupt ch).claimAt k = s.claimAt k := by rw [sendInterrupt_frame]; rfl
@[simp] theorem heldMode_sendInterrupt (ch : Nat) (k : Nat) : (s.sendInterrupt ch).heldMode k = s.heldMode k := by rw [sendInterrupt_frame]; rfl
@[simp] theorem wantedMode_sendInterrupt (ch : Nat) (k : Nat) : (s.sendInterrupt ch).wantedMode k = s.wantedMode k := by rw [sendInterrupt_frame]; rfl
@[simp] theorem claimHandle_sendInterrupt (ch : Nat) (k : Nat) : (s.sendInterrupt ch).claimHandle k = s.claimHandle k := by rw [sendInterrupt_frame]; rfl
@[simp] theorem way_sendInterrupt (ch : Nat) (k : Nat) : (s.sendInterrupt ch).way k = s.way k := by rw [sendInterrupt_frame]; rfl
@[simp] theorem entry_sendInterrupt (ch : Nat) (k : Nat) : (s.sendInterrupt ch).entry k = s.entry k := by rw [sendInterrupt_frame]; rfl
@[simp] theorem dormantOrder_sendInterrupt (ch : Nat) (k : Nat) : (s.sendInterrupt ch).dormantOrder k = s.dormantOrder k := by rw [sendInterrupt_frame]; rfl

/-! ### markLapse -/

@[simp] theorem markLapse_ready (n : Notice) (b : Bool) : (s.markLapse n b).ready = s.ready := by rw [markLapse_frame]
@[simp] theorem markLapse_mgmt (n : Notice) (b : Bool) : (s.markLapse n b).mgmt = s.mgmt := by rw [markLapse_frame]
@[simp] theorem markLapse_channels (n : Notice) (b : Bool) : (s.markLapse n b).channels = s.channels := by rw [markLapse_frame]
@[simp] theorem markLapse_lastGranted (n : Notice) (b : Bool) : (s.markLapse n b).lastGranted = s.lastGranted := by rw [markLapse_frame]
@[simp] theorem markLapse_teardownReplies (n : Notice) (b : Bool) : (s.markLapse n b).teardownReplies = s.teardownReplies := by rw [markLapse_frame]
@[simp] theorem markLapse_claims (n : Notice) (b : Bool) : (s.markLapse n b).claims = s.claims := by rw [markLapse_frame]
@[simp] theorem markLapse_ways (n : Notice) (b : Bool) : (s.markLapse n b).ways = s.ways := by rw [markLapse_frame]
@[simp] theorem markLapse_dormant (n : Notice) (b : Bool) : (s.markLapse n b).dormant = s.dormant := by rw [markLapse_frame]
@[simp] theorem markLapse_nextSerial (n : Notice) (b : Bool) : (s.markLapse n b).nextSerial = s.nextSerial := by rw [markLapse_frame]
@[simp] theorem markLapse_now (n : Notice) (b : Bool) : (s.markLapse n b).now = s.now := by rw [markLapse_frame]
@[simp] theorem markLapse_period (n : Notice) (b : Bool) : (s.markLapse n b).period = s.period := by rw [markLapse_frame]
@[simp] theorem markLapse_requestedPeriod (n : Notice) (b : Bool) : (s.markLapse n b).requestedPeriod = s.requestedPeriod := by rw [markLapse_frame]
@[simp] theorem markLapse_interrupts (n : Notice) (b : Bool) : (s.markLapse n b).interrupts = s.interrupts := by rw [markLapse_frame]
@[simp] theorem markLapse_choices (n : Notice) (b : Bool) : (s.markLapse n b).choices = s.choices := by rw [markLapse_frame]
@[simp] theorem markLapse_pending (n : Notice) (b : Bool) : (s.markLapse n b).pending = s.pending := by rw [markLapse_frame]
@[simp] theorem chan_markLapse (n : Notice) (b : Bool) (k : Nat) : (s.markLapse n b).chan k = s.chan k := by rw [markLapse_frame]; rfl
@[simp] theorem claim_markLapse (n : Notice) (b : Bool) (k : Nat) : (s.markLapse n b).claim k = s.claim k := by rw [markLapse_frame]; rfl
@[simp] theorem claimAt_markLapse (n : Notice) (b : Bool) (k : Nat) : (s.markLapse n b).claimAt k = s.claimAt k := by rw [markLapse_frame]; rfl
@[simp] theorem heldMode_markLapse (n : Notice) (b : Bool) (k : Nat) : (s.markLapse n b).heldMode k = s.heldMode k := by rw [markLapse_frame]; rfl
@[simp] theorem wantedMode_markLapse (n : Notice) (b : Bool) (k : Nat) : (s.markLapse n b).wantedMode k = s.wantedMode k := by rw [markLapse_frame]; rfl
@[simp] theorem claimHandle_markLapse (n : Notice) (b : Bool) (k : Nat) : (s.markLapse n b).claimHandle k = s.claimHandle k := by rw [markLapse_frame]; rfl
@[simp] theorem way_markLapse (n : Notice) (b : Bool) (k : Nat) : (s.markLapse n b).way k = s.way k := by rw [markLapse_frame]; rfl
@[simp] theorem entry_markLapse (n : Notice) (b : Bool) (k : Nat) : (s.markLapse n b).entry k = s.entry k := by rw [markLapse_frame]; rfl
@[simp] theorem dormantOrder_markLapse (n : Notice) (b : Bool) (k : Nat) : (s.markLapse n b).dormantOrder k = s.dormantOrder k := by rw [markLapse_frame]; rfl

/-! ### raise -/

@[simp] theorem raise_ready (ch : Nat) (n : Notice) : (s.raise ch n).ready = s.ready := by rw [raise_frame]
@[simp] theorem raise_mgmt (ch : Nat) (n : Notice) : (s.raise ch n).mgmt = s.mgmt := by rw [raise_frame]
@[simp] theorem raise_lastGranted (ch : Nat) (n : Notice) : (s.raise ch n).lastGranted = s.lastGranted := by rw [raise_frame]
@[simp] theorem raise_teardownReplies (ch : Nat) (n : Notice) : (s.raise ch n).teardownReplies = s.teardownReplies := by rw [raise_frame]
@[simp] theorem raise_claims (ch : Nat) (n : Notice) : (s.raise ch n).claims = s.claims := by rw [raise_frame]
@[simp] theorem raise_ways (ch : Nat) (n : Notice) : (s.raise ch n).ways = s.ways := by rw [raise_frame]
@[simp] theorem raise_dormant (ch : Nat) (n : Notice) : (s.raise ch n).dormant = s.dormant := by rw [raise_frame]
@[simp] theorem raise_nextSerial (ch : Nat) (n : Notice) : (s.raise ch n).nextSerial = s.nextSerial := by rw [raise_frame]
@[simp] theorem raise_now (ch : Nat) (n : Notice) : (s.raise ch n).now = s.now := by rw [raise_frame]
@[simp] theorem raise_period (ch : Nat) (n : Notice) : (s.raise ch n).period = s.period := by rw [raise_frame]
@[simp] theorem raise_requestedPeriod (ch : Nat) (n : Notice) : (s.raise ch n).requestedPeriod = s.requestedPeriod := by rw [raise_frame]
@[simp] theorem raise_interrupts (ch : Nat) (n : Notice) : (s.raise ch n).interrupts = s.interrupts := by rw [raise_frame]
@[simp] theorem raise_choices (ch : Nat) (n : Notice) : (s.raise ch n).choices = s.choices := by rw [raise_frame]
@[simp] theorem raise_pending (ch : Nat) (n : Notice) : (s.raise ch n).pending = s.pending := by rw [raise_frame]
@[simp] theorem claim_raise (ch : Nat) (n : Notice) (k : Nat) : (s.raise ch n).claim k = s.claim k := by rw [raise_frame]; rfl
@[simp] theorem claimAt_raise (ch : Nat) (n : Notice) (k : Nat) : (s.raise ch n).claimAt k = s.claimAt k := by rw [raise_frame]; rfl
@[simp] theorem heldMode_raise (ch : Nat) (n : Notice) (k : Nat) : (s.raise ch n).heldMode k = s.heldMode k := by rw [raise_frame]; rfl
@[simp] theorem wantedMode_raise (ch : Nat) (n : Notice) (k : Nat) : (s.raise ch n).wantedMode k = s.wantedMode k := by rw [raise_frame]; rfl
@[simp] theorem claimHandle_raise (ch : Nat) (n : Notice) (k : Nat) : (s.raise ch n).claimHandle k = s.claimHandle k := by rw [raise_frame]; rfl
@[simp] theorem way_raise (ch : Nat) (n : Notice) (k : Nat) : (s.raise ch n).way k = s.way k := by rw [raise_frame]; rfl
@[simp] theorem entry_raise (ch : Nat) (n : Notice) (k : Nat) : (s.raise ch n).entry k = s.entry k := by rw [raise_frame]; rfl
@[simp] theorem dormantOrder_raise (ch : Nat) (n : Notice) (k : Nat) : (s.raise ch n).dormantOrder k = s.dormantOrder k := by rw [raise_frame]; rfl

/-! ### modOpen -/

@[simp] theorem modOpen_ready (i : Nat) (f : OpenSession → OpenSession) : (s.modOpen i f).ready = s.ready := by rw [modOpen_frame]
@[simp] theorem modOpen_mgmt (i : Nat) (f : OpenSession → OpenSession) : (s.modOpen i f).mgmt = s.mgmt := by rw [modOpen_frame]
@[simp] theorem modOpen_channels (i : Nat) (f : OpenSession → OpenSession) : (s.modOpen i f).channels = s.channels := by rw [modOpen_frame]
@[simp] theorem modOpen_lastGranted (i : Nat) (f : OpenSession → OpenSession) : (s.modOpen i f).lastGranted = s.lastGranted := by rw [modOpen_frame]
@[simp] theorem modOpen_teardownReplies (i : Nat) (f : OpenSession → OpenSession) : (s.modOpen i f).teardownReplies = s.teardownReplies := by rw [modOpen_frame]
@[simp] theorem modOpen_claims (i : Nat) (f : OpenSession → OpenSession) : (s.modOpen i f).claims = s.claims := by rw [modOpen_frame]
@[simp] theorem modOpen_ways (i : Nat) (f : OpenSession → OpenSession) : (s.modOpen i f).ways = s.ways := by rw [modOpen_frame]
@[simp] theorem modOpen_dormant (i : Nat) (f : OpenSession → OpenSession) : (s.modOpen i f).dormant = s.dormant := by rw [modOpen_frame]
@[simp] theorem modOpen_nextSerial (i : Nat) (f : OpenSession → OpenSession) : (s.modOpen i f).nextSerial = s.nextSerial := by rw [modOpen_frame]
@[simp] theorem modOpen_now (i : Nat) (f : OpenSession → OpenSession) : (s.modOpen i f).now = s.now := by rw [modOpen_frame]
@[simp] theorem modOpen_period (i : Nat) (f : OpenSession → OpenSession) : (s.modOpen i f).period = s.period := by rw [modOpen_frame]
@[simp] theorem modOpen_requestedPeriod (i : Nat) (f : OpenSession → OpenSession) : (s.modOpen i f).requestedPeriod = s.requestedPeriod := by rw [modOpen_frame]
@[simp] theorem modOpen_interrupts (i : Nat) (f : OpenSession → OpenSession) : (s.modOpen i f).interrupts = s.interrupts := by rw [modOpen_frame]
@[simp] theorem modOpen_choices (i : Nat) (f : OpenSession → OpenSession) : (s.modOpen i f).choices = s.choices := by rw [modOpen_frame]
@[simp] theorem modOpen_pending (i : Nat) (f : OpenSession → OpenSession) : (s.modOpen i f).pending = s.pending := by rw [modOpen_frame]
@[simp] theorem chan_modOpen (i : Nat) (f : OpenSession → OpenSession) (k : Nat) : (s.modOpen i f).chan k = s.chan k := by rw [modOpen_frame]; rfl
@[simp] theorem claim_modOpen (i : Nat) (f : OpenSession → OpenSession) (k : Nat) : (s.modOpen i f).claim k = s.claim k := by rw [modOpen_frame]; rfl
@[simp] theorem claimAt_modOpen (i : Nat) (f : OpenSession → OpenSession) (k : Nat) : (s.modOpen i f).claimAt k = s.claimAt k := by rw [modOpen_frame]; rfl
@[simp] theorem heldMode_modOpen (i : Nat) (f : OpenSession → OpenSession) (k : Nat) : (s.modOpen i f).heldMode k = s.heldMode k := by rw [modOpen_frame]; rfl
@[simp] theorem wantedMode_modOpen (i : Nat) (f : OpenSession → OpenSession) (k : Nat) : (s.modOpen i f).wantedMode k = s.wantedMode k := by rw [modOpen_frame]; rfl
@[simp] theorem claimHandle_modOpen (i : Nat) (f : OpenSession → OpenSession) (k : Nat) : (s.modOpen i f).claimHandle k = s.claimHandle k := by rw [modOpen_frame]; rfl
@[simp] theorem way_modOpen (i : Nat) (f : OpenSession → OpenSession) (k : Nat) : (s.modOpen i f).way k = s.way k := by rw [modOpen_frame]; rfl
@[simp] theorem entry_modOpen (i : Nat) (f : OpenSession → OpenSession) (k : Nat) : (s.modOpen i f).entry k = s.entry k := by rw [modOpen_frame]; rfl
@[simp] theorem dormantOrder_modOpen (i : Nat) (f : OpenSession → OpenSession) (k : Nat) : (s.modOpen i f).dormantOrder k = s.dormantOrder k := by rw [modOpen_frame]; rfl

/-! ### renew -/

@[simp] theorem renew_ready (i : Nat) : (s.renew i).ready = s.ready := by rw [renew_frame]
@[simp] theorem renew_mgmt (i : Nat) : (s.renew i).mgmt = s.mgmt := by rw [renew_frame]
@[simp] theorem renew_channels (i : Nat) : (s.renew i).channels = s.channels := by rw [renew_frame]
@[simp] theorem renew_lastGranted (i : Nat) : (s.renew i).lastGranted = s.lastGranted := by rw [renew_frame]
@[simp] theorem renew_teardownReplies (i : Nat) : (s.renew i).teardownReplies = s.teardownReplies := by rw [renew_frame]
@[simp] theorem renew_claims (i : Nat) : (s.renew i).claims = s.claims := by rw [renew_frame]
@[simp] theorem renew_ways (i : Nat) : (s.renew i).ways = s.ways := by rw [renew_frame]
@[simp] theorem renew_dormant (i : Nat) : (s.renew i).dormant = s.dormant := by rw [renew_frame]
@[simp] theorem renew_nextSerial (i : Nat) : (s.renew i).nextSerial = s.nextSerial := by rw [renew_frame]
@[simp] theorem renew_now (i : Nat) : (s.renew i).now = s.now := by rw [renew_frame]
@[simp] theorem renew_period (i : Nat) : (s.renew i).period = s.period := by rw [renew_frame]
@[simp] theorem renew_requestedPeriod (i : Nat) : (s.renew i).requestedPeriod = s.requestedPeriod := by rw [renew_frame]
@[simp] theorem renew_interrupts (i : Nat) : (s.renew i).interrupts = s.interrupts := by rw [renew_frame]
@[simp] theorem renew_choices (i : Nat) : (s.renew i).choices = s.choices := by rw [renew_frame]
@[simp] theorem renew_pending (i : Nat) : (s.renew i).pending = s.pending := by rw [renew_frame]
@[simp] theorem chan_renew (i : Nat) (k : Nat) : (s.renew i).chan k = s.chan k := by rw [renew_frame]; rfl
@[simp] theorem claim_renew (i : Nat) (k : Nat) : (s.renew i).claim k = s.claim k := by rw [renew_frame]; rfl
@[simp] theorem claimAt_renew (i : Nat) (k : Nat) : (s.renew i).claimAt k = s.claimAt k := by rw [renew_frame]; rfl
@[simp] theorem heldMode_renew (i : Nat) (k : Nat) : (s.renew i).heldMode k = s.heldMode k := by rw [renew_frame]; rfl
@[simp] theorem wantedMode_renew (i : Nat) (k : Nat) : (s.renew i).wantedMode k = s.wantedMode k := by rw [renew_frame]; rfl
@[simp] theorem claimHandle_renew (i : Nat) (k : Nat) : (s.renew i).claimHandle k = s.claimHandle k := by rw [renew_frame]; rfl
@[simp] theorem way_renew (i : Nat) (k : Nat) : (s.renew i).way k = s.way k := by rw [renew_frame]; rfl
@[simp] theorem entry_renew (i : Nat) (k : Nat) : (s.renew i).entry k = s.entry k := by rw [renew_frame]; rfl
@[simp] theorem dormantOrder_renew (i : Nat) (k : Nat) : (s.renew i).dormantOrder k = s.dormantOrder k := by rw [renew_frame]; rfl

/-! ### freeSession -/

@[simp] theorem freeSession_ready (i : Nat) : (s.freeSession i).ready = s.ready := rfl
@[simp] theorem freeSession_mgmt (i : Nat) : (s.freeSession i).mgmt = s.mgmt := rfl
@[simp] theorem freeSession_channels (i : Nat) : (s.freeSession i).channels = s.channels := rfl
@[simp] theorem freeSession_lastGranted (i : Nat) : (s.freeSession i).lastGranted = s.lastGranted := rfl
@[simp] theorem freeSession_teardownReplies (i : Nat) : (s.freeSession i).teardownReplies = s.teardownReplies := rfl
@[simp] theorem freeSession_claims (i : Nat) : (s.freeSession i).claims = s.claims := rfl
@[simp] theorem freeSession_ways (i : Nat) : (s.freeSession i).ways = s.ways := rfl
@[simp] theorem freeSession_dormant (i : Nat) : (s.freeSession i).dormant = s.dormant := rfl
@[simp] theorem freeSession_nextSerial (i : Nat) : (s.freeSession i).nextSerial = s.nextSerial := rfl
@[simp] theorem freeSession_now (i : Nat) : (s.freeSession i).now = s.now := rfl
@[simp] theorem freeSession_period (i : Nat) : (s.freeSession i).period = s.period := rfl
@[simp] theorem freeSession_requestedPeriod (i : Nat) : (s.freeSession i).requestedPeriod = s.requestedPeriod := rfl
@[simp] theorem freeSession_interrupts (i : Nat) : (s.freeSession i).interrupts = s.interrupts := rfl
@[simp] theorem freeSession_choices (i : Nat) : (s.freeSession i).choices = s.choices := rfl
@[simp] theorem freeSession_pending (i : Nat) : (s.freeSession i).pending = s.pending := rfl
@[simp] theorem chan_freeSession (i : Nat) (k : Nat) : (s.freeSession i).chan k = s.chan k := rfl
@[simp] theorem claim_freeSession (i : Nat) (k : Nat) : (s.freeSession i).claim k = s.claim k := rfl
@[simp] theorem claimAt_freeSession (i : Nat) (k : Nat) : (s.freeSession i).claimAt k = s.claimAt k := rfl
@[simp] theorem heldMode_freeSession (i : Nat) (k : Nat) : (s.freeSession i).heldMode k = s.heldMode k := rfl
@[simp] theorem wantedMode_freeSession (i : Nat) (k : Nat) : (s.freeSession i).wantedMode k = s.wantedMode k := rfl
@[simp] theorem claimHandle_freeSession (i : Nat) (k : Nat) : (s.freeSession i).claimHandle k = s.claimHandle k := rfl
@[simp] theorem way_freeSession (i : Nat) (k : Nat) : (s.freeSession i).way k = s.way k := rfl
@[simp] theorem entry_freeSession (i : Nat) (k : Nat) : (s.freeSession i).entry k = s.entry k := rfl
@[simp] theorem dormantOrder_freeSession (i : Nat) (k : Nat) : (s.freeSession i).dormantOrder k = s.dormantOrder k := rfl

/-! ### openAt -/

@[simp] theorem openAt_ready (i ch : Nat) (p : BitVec 16) (b : Bool) : (s.openAt i ch p b).ready = s.ready := rfl
@[simp] theorem openAt_mgmt (i ch : Nat) (p : BitVec 16) (b : Bool) : (s.openAt i ch p b).mgmt = s.mgmt := rfl
@[simp] theorem openAt_channels (i ch : Nat) (p : BitVec 16) (b : Bool) : (s.openAt i ch p b).channels = s.channels := rfl
@[simp] theorem openAt_lastGranted (i ch : Nat) (p : BitVec 16) (b : Bool) : (s.openAt i ch p b).lastGranted = s.lastGranted := rfl
@[simp] theorem openAt_teardownReplies (i ch : Nat) (p : BitVec 16) (b : Bool) : (s.openAt i ch p b).teardownReplies = s.teardownReplies := rfl
@[simp] theorem openAt_claims (i ch : Nat) (p : BitVec 16) (b : Bool) : (s.openAt i ch p b).claims = s.claims := rfl
@[simp] theorem openAt_ways (i ch : Nat) (p : BitVec 16) (b : Bool) : (s.openAt i ch p b).ways = s.ways := rfl
@[simp] theorem openAt_dormant (i ch : Nat) (p : BitVec 16) (b : Bool) : (s.openAt i ch p b).dormant = s.dormant := rfl
@[simp] theorem openAt_nextSerial (i ch : Nat) (p : BitVec 16) (b : Bool) : (s.openAt i ch p b).nextSerial = s.nextSerial := rfl
@[simp] theorem openAt_now (i ch : Nat) (p : BitVec 16) (b : Bool) : (s.openAt i ch p b).now = s.now := rfl
@[simp] theorem openAt_period (i ch : Nat) (p : BitVec 16) (b : Bool) : (s.openAt i ch p b).period = s.period := rfl
@[simp] theorem openAt_requestedPeriod (i ch : Nat) (p : BitVec 16) (b : Bool) : (s.openAt i ch p b).requestedPeriod = s.requestedPeriod := rfl
@[simp] theorem openAt_interrupts (i ch : Nat) (p : BitVec 16) (b : Bool) : (s.openAt i ch p b).interrupts = s.interrupts := rfl
@[simp] theorem openAt_choices (i ch : Nat) (p : BitVec 16) (b : Bool) : (s.openAt i ch p b).choices = s.choices := rfl
@[simp] theorem openAt_pending (i ch : Nat) (p : BitVec 16) (b : Bool) : (s.openAt i ch p b).pending = s.pending := rfl
@[simp] theorem chan_openAt (i ch : Nat) (p : BitVec 16) (b : Bool) (k : Nat) : (s.openAt i ch p b).chan k = s.chan k := rfl
@[simp] theorem claim_openAt (i ch : Nat) (p : BitVec 16) (b : Bool) (k : Nat) : (s.openAt i ch p b).claim k = s.claim k := rfl
@[simp] theorem claimAt_openAt (i ch : Nat) (p : BitVec 16) (b : Bool) (k : Nat) : (s.openAt i ch p b).claimAt k = s.claimAt k := rfl
@[simp] theorem heldMode_openAt (i ch : Nat) (p : BitVec 16) (b : Bool) (k : Nat) : (s.openAt i ch p b).heldMode k = s.heldMode k := rfl
@[simp] theorem wantedMode_openAt (i ch : Nat) (p : BitVec 16) (b : Bool) (k : Nat) : (s.openAt i ch p b).wantedMode k = s.wantedMode k := rfl
@[simp] theorem claimHandle_openAt (i ch : Nat) (p : BitVec 16) (b : Bool) (k : Nat) : (s.openAt i ch p b).claimHandle k = s.claimHandle k := rfl
@[simp] theorem way_openAt (i ch : Nat) (p : BitVec 16) (b : Bool) (k : Nat) : (s.openAt i ch p b).way k = s.way k := rfl
@[simp] theorem entry_openAt (i ch : Nat) (p : BitVec 16) (b : Bool) (k : Nat) : (s.openAt i ch p b).entry k = s.entry k := rfl
@[simp] theorem dormantOrder_openAt (i ch : Nat) (p : BitVec 16) (b : Bool) (k : Nat) : (s.openAt i ch p b).dormantOrder k = s.dormantOrder k := rfl

/-! ### modClaim -/

@[simp] theorem modClaim_ready (c : Nat) (f : Claim → Claim) : (s.modClaim c f).ready = s.ready := by rw [modClaim_frame]
@[simp] theorem modClaim_mgmt (c : Nat) (f : Claim → Claim) : (s.modClaim c f).mgmt = s.mgmt := by rw [modClaim_frame]
@[simp] theorem modClaim_channels (c : Nat) (f : Claim → Claim) : (s.modClaim c f).channels = s.channels := by rw [modClaim_frame]
@[simp] theorem modClaim_lastGranted (c : Nat) (f : Claim → Claim) : (s.modClaim c f).lastGranted = s.lastGranted := by rw [modClaim_frame]
@[simp] theorem modClaim_teardownReplies (c : Nat) (f : Claim → Claim) : (s.modClaim c f).teardownReplies = s.teardownReplies := by rw [modClaim_frame]
@[simp] theorem modClaim_sessions (c : Nat) (f : Claim → Claim) : (s.modClaim c f).sessions = s.sessions := by rw [modClaim_frame]
@[simp] theorem modClaim_ways (c : Nat) (f : Claim → Claim) : (s.modClaim c f).ways = s.ways := by rw [modClaim_frame]
@[simp] theorem modClaim_dormant (c : Nat) (f : Claim → Claim) : (s.modClaim c f).dormant = s.dormant := by rw [modClaim_frame]
@[simp] theorem modClaim_nextSerial (c : Nat) (f : Claim → Claim) : (s.modClaim c f).nextSerial = s.nextSerial := by rw [modClaim_frame]
@[simp] theorem modClaim_now (c : Nat) (f : Claim → Claim) : (s.modClaim c f).now = s.now := by rw [modClaim_frame]
@[simp] theorem modClaim_period (c : Nat) (f : Claim → Claim) : (s.modClaim c f).period = s.period := by rw [modClaim_frame]
@[simp] theorem modClaim_requestedPeriod (c : Nat) (f : Claim → Claim) : (s.modClaim c f).requestedPeriod = s.requestedPeriod := by rw [modClaim_frame]
@[simp] theorem modClaim_interrupts (c : Nat) (f : Claim → Claim) : (s.modClaim c f).interrupts = s.interrupts := by rw [modClaim_frame]
@[simp] theorem modClaim_choices (c : Nat) (f : Claim → Claim) : (s.modClaim c f).choices = s.choices := by rw [modClaim_frame]
@[simp] theorem modClaim_pending (c : Nat) (f : Claim → Claim) : (s.modClaim c f).pending = s.pending := by rw [modClaim_frame]
@[simp] theorem chan_modClaim (c : Nat) (f : Claim → Claim) (k : Nat) : (s.modClaim c f).chan k = s.chan k := by rw [modClaim_frame]; rfl
@[simp] theorem session_modClaim (c : Nat) (f : Claim → Claim) (k : Nat) : (s.modClaim c f).session k = s.session k := by rw [modClaim_frame]; rfl
@[simp] theorem sessionHandle_modClaim (c : Nat) (f : Claim → Claim) (k : Nat) : (s.modClaim c f).sessionHandle k = s.sessionHandle k := by rw [modClaim_frame]; rfl
@[simp] theorem way_modClaim (c : Nat) (f : Claim → Claim) (k : Nat) : (s.modClaim c f).way k = s.way k := by rw [modClaim_frame]; rfl
@[simp] theorem entry_modClaim (c : Nat) (f : Claim → Claim) (k : Nat) : (s.modClaim c f).entry k = s.entry k := by rw [modClaim_frame]; rfl
@[simp] theorem dormantOrder_modClaim (c : Nat) (f : Claim → Claim) (k : Nat) : (s.modClaim c f).dormantOrder k = s.dormantOrder k := by rw [modClaim_frame]; rfl

/-! ### modEntry -/

@[simp] theorem modEntry_ready (w : Nat) (f : Entry → Entry) : (s.modEntry w f).ready = s.ready := by rw [modEntry_frame]
@[simp] theorem modEntry_mgmt (w : Nat) (f : Entry → Entry) : (s.modEntry w f).mgmt = s.mgmt := by rw [modEntry_frame]
@[simp] theorem modEntry_channels (w : Nat) (f : Entry → Entry) : (s.modEntry w f).channels = s.channels := by rw [modEntry_frame]
@[simp] theorem modEntry_lastGranted (w : Nat) (f : Entry → Entry) : (s.modEntry w f).lastGranted = s.lastGranted := by rw [modEntry_frame]
@[simp] theorem modEntry_teardownReplies (w : Nat) (f : Entry → Entry) : (s.modEntry w f).teardownReplies = s.teardownReplies := by rw [modEntry_frame]
@[simp] theorem modEntry_sessions (w : Nat) (f : Entry → Entry) : (s.modEntry w f).sessions = s.sessions := by rw [modEntry_frame]
@[simp] theorem modEntry_claims (w : Nat) (f : Entry → Entry) : (s.modEntry w f).claims = s.claims := by rw [modEntry_frame]
@[simp] theorem modEntry_dormant (w : Nat) (f : Entry → Entry) : (s.modEntry w f).dormant = s.dormant := by rw [modEntry_frame]
@[simp] theorem modEntry_nextSerial (w : Nat) (f : Entry → Entry) : (s.modEntry w f).nextSerial = s.nextSerial := by rw [modEntry_frame]
@[simp] theorem modEntry_now (w : Nat) (f : Entry → Entry) : (s.modEntry w f).now = s.now := by rw [modEntry_frame]
@[simp] theorem modEntry_period (w : Nat) (f : Entry → Entry) : (s.modEntry w f).period = s.period := by rw [modEntry_frame]
@[simp] theorem modEntry_requestedPeriod (w : Nat) (f : Entry → Entry) : (s.modEntry w f).requestedPeriod = s.requestedPeriod := by rw [modEntry_frame]
@[simp] theorem modEntry_interrupts (w : Nat) (f : Entry → Entry) : (s.modEntry w f).interrupts = s.interrupts := by rw [modEntry_frame]
@[simp] theorem modEntry_choices (w : Nat) (f : Entry → Entry) : (s.modEntry w f).choices = s.choices := by rw [modEntry_frame]
@[simp] theorem modEntry_pending (w : Nat) (f : Entry → Entry) : (s.modEntry w f).pending = s.pending := by rw [modEntry_frame]
@[simp] theorem chan_modEntry (w : Nat) (f : Entry → Entry) (k : Nat) : (s.modEntry w f).chan k = s.chan k := by rw [modEntry_frame]; rfl
@[simp] theorem session_modEntry (w : Nat) (f : Entry → Entry) (k : Nat) : (s.modEntry w f).session k = s.session k := by rw [modEntry_frame]; rfl
@[simp] theorem sessionHandle_modEntry (w : Nat) (f : Entry → Entry) (k : Nat) : (s.modEntry w f).sessionHandle k = s.sessionHandle k := by rw [modEntry_frame]; rfl
@[simp] theorem claim_modEntry (w : Nat) (f : Entry → Entry) (k : Nat) : (s.modEntry w f).claim k = s.claim k := by rw [modEntry_frame]; rfl
@[simp] theorem claimAt_modEntry (w : Nat) (f : Entry → Entry) (k : Nat) : (s.modEntry w f).claimAt k = s.claimAt k := by rw [modEntry_frame]; rfl
@[simp] theorem heldMode_modEntry (w : Nat) (f : Entry → Entry) (k : Nat) : (s.modEntry w f).heldMode k = s.heldMode k := by rw [modEntry_frame]; rfl
@[simp] theorem wantedMode_modEntry (w : Nat) (f : Entry → Entry) (k : Nat) : (s.modEntry w f).wantedMode k = s.wantedMode k := by rw [modEntry_frame]; rfl
@[simp] theorem claimHandle_modEntry (w : Nat) (f : Entry → Entry) (k : Nat) : (s.modEntry w f).claimHandle k = s.claimHandle k := by rw [modEntry_frame]; rfl
@[simp] theorem dormantOrder_modEntry (w : Nat) (f : Entry → Entry) (k : Nat) : (s.modEntry w f).dormantOrder k = s.dormantOrder k := by rw [modEntry_frame]; rfl

/-! ### createAt -/

@[simp] theorem createAt_ready (w : Nat) (key : Key) : (s.createAt w key).ready = s.ready := rfl
@[simp] theorem createAt_mgmt (w : Nat) (key : Key) : (s.createAt w key).mgmt = s.mgmt := rfl
@[simp] theorem createAt_channels (w : Nat) (key : Key) : (s.createAt w key).channels = s.channels := rfl
@[simp] theorem createAt_lastGranted (w : Nat) (key : Key) : (s.createAt w key).lastGranted = s.lastGranted := rfl
@[simp] theorem createAt_teardownReplies (w : Nat) (key : Key) : (s.createAt w key).teardownReplies = s.teardownReplies := rfl
@[simp] theorem createAt_sessions (w : Nat) (key : Key) : (s.createAt w key).sessions = s.sessions := rfl
@[simp] theorem createAt_claims (w : Nat) (key : Key) : (s.createAt w key).claims = s.claims := rfl
@[simp] theorem createAt_dormant (w : Nat) (key : Key) : (s.createAt w key).dormant = s.dormant := rfl
@[simp] theorem createAt_nextSerial (w : Nat) (key : Key) : (s.createAt w key).nextSerial = s.nextSerial := rfl
@[simp] theorem createAt_now (w : Nat) (key : Key) : (s.createAt w key).now = s.now := rfl
@[simp] theorem createAt_period (w : Nat) (key : Key) : (s.createAt w key).period = s.period := rfl
@[simp] theorem createAt_requestedPeriod (w : Nat) (key : Key) : (s.createAt w key).requestedPeriod = s.requestedPeriod := rfl
@[simp] theorem createAt_interrupts (w : Nat) (key : Key) : (s.createAt w key).interrupts = s.interrupts := rfl
@[simp] theorem createAt_choices (w : Nat) (key : Key) : (s.createAt w key).choices = s.choices := rfl
@[simp] theorem createAt_pending (w : Nat) (key : Key) : (s.createAt w key).pending = s.pending := rfl
@[simp] theorem chan_createAt (w : Nat) (key : Key) (k : Nat) : (s.createAt w key).chan k = s.chan k := rfl
@[simp] theorem session_createAt (w : Nat) (key : Key) (k : Nat) : (s.createAt w key).session k = s.session k := rfl
@[simp] theorem sessionHandle_createAt (w : Nat) (key : Key) (k : Nat) : (s.createAt w key).sessionHandle k = s.sessionHandle k := rfl
@[simp] theorem claim_createAt (w : Nat) (key : Key) (k : Nat) : (s.createAt w key).claim k = s.claim k := rfl
@[simp] theorem claimAt_createAt (w : Nat) (key : Key) (k : Nat) : (s.createAt w key).claimAt k = s.claimAt k := rfl
@[simp] theorem heldMode_createAt (w : Nat) (key : Key) (k : Nat) : (s.createAt w key).heldMode k = s.heldMode k := rfl
@[simp] theorem wantedMode_createAt (w : Nat) (key : Key) (k : Nat) : (s.createAt w key).wantedMode k = s.wantedMode k := rfl
@[simp] theorem claimHandle_createAt (w : Nat) (key : Key) (k : Nat) : (s.createAt w key).claimHandle k = s.claimHandle k := rfl
@[simp] theorem dormantOrder_createAt (w : Nat) (key : Key) (k : Nat) : (s.createAt w key).dormantOrder k = s.dormantOrder k := rfl

/-! ### leaveDormant -/

@[simp] theorem leaveDormant_ready (w : Nat) (x : Way) : (s.leaveDormant w x).ready = s.ready := rfl
@[simp] theorem leaveDormant_mgmt (w : Nat) (x : Way) : (s.leaveDormant w x).mgmt = s.mgmt := rfl
@[simp] theorem leaveDormant_channels (w : Nat) (x : Way) : (s.leaveDormant w x).channels = s.channels := rfl
@[simp] theorem leaveDormant_lastGranted (w : Nat) (x : Way) : (s.leaveDormant w x).lastGranted = s.lastGranted := rfl
@[simp] theorem leaveDormant_teardownReplies (w : Nat) (x : Way) : (s.leaveDormant w x).teardownReplies = s.teardownReplies := rfl
@[simp] theorem leaveDormant_sessions (w : Nat) (x : Way) : (s.leaveDormant w x).sessions = s.sessions := rfl
@[simp] theorem leaveDormant_claims (w : Nat) (x : Way) : (s.leaveDormant w x).claims = s.claims := rfl
@[simp] theorem leaveDormant_nextSerial (w : Nat) (x : Way) : (s.leaveDormant w x).nextSerial = s.nextSerial := rfl
@[simp] theorem leaveDormant_now (w : Nat) (x : Way) : (s.leaveDormant w x).now = s.now := rfl
@[simp] theorem leaveDormant_period (w : Nat) (x : Way) : (s.leaveDormant w x).period = s.period := rfl
@[simp] theorem leaveDormant_requestedPeriod (w : Nat) (x : Way) : (s.leaveDormant w x).requestedPeriod = s.requestedPeriod := rfl
@[simp] theorem leaveDormant_interrupts (w : Nat) (x : Way) : (s.leaveDormant w x).interrupts = s.interrupts := rfl
@[simp] theorem leaveDormant_choices (w : Nat) (x : Way) : (s.leaveDormant w x).choices = s.choices := rfl
@[simp] theorem leaveDormant_pending (w : Nat) (x : Way) : (s.leaveDormant w x).pending = s.pending := rfl
@[simp] theorem chan_leaveDormant (w : Nat) (x : Way) (k : Nat) : (s.leaveDormant w x).chan k = s.chan k := rfl
@[simp] theorem session_leaveDormant (w : Nat) (x : Way) (k : Nat) : (s.leaveDormant w x).session k = s.session k := rfl
@[simp] theorem sessionHandle_leaveDormant (w : Nat) (x : Way) (k : Nat) : (s.leaveDormant w x).sessionHandle k = s.sessionHandle k := rfl
@[simp] theorem claim_leaveDormant (w : Nat) (x : Way) (k : Nat) : (s.leaveDormant w x).claim k = s.claim k := rfl
@[simp] theorem claimAt_leaveDormant (w : Nat) (x : Way) (k : Nat) : (s.leaveDormant w x).claimAt k = s.claimAt k := rfl
@[simp] theorem heldMode_leaveDormant (w : Nat) (x : Way) (k : Nat) : (s.leaveDormant w x).heldMode k = s.heldMode k := rfl
@[simp] theorem wantedMode_leaveDormant (w : Nat) (x : Way) (k : Nat) : (s.leaveDormant w x).wantedMode k = s.wantedMode k := rfl
@[simp] theorem claimHandle_leaveDormant (w : Nat) (x : Way) (k : Nat) : (s.leaveDormant w x).claimHandle k = s.claimHandle k := rfl

/-! ### settle -/

@[simp] theorem settle_ready (w : Nat) : (s.settle w).ready = s.ready := by rw [settle_frame]
@[simp] theorem settle_mgmt (w : Nat) : (s.settle w).mgmt = s.mgmt := by rw [settle_frame]
@[simp] theorem settle_channels (w : Nat) : (s.settle w).channels = s.channels := by rw [settle_frame]
@[simp] theorem settle_lastGranted (w : Nat) : (s.settle w).lastGranted = s.lastGranted := by rw [settle_frame]
@[simp] theorem settle_teardownReplies (w : Nat) : (s.settle w).teardownReplies = s.teardownReplies := by rw [settle_frame]
@[simp] theorem settle_sessions (w : Nat) : (s.settle w).sessions = s.sessions := by rw [settle_frame]
@[simp] theorem settle_claims (w : Nat) : (s.settle w).claims = s.claims := by rw [settle_frame]
@[simp] theorem settle_nextSerial (w : Nat) : (s.settle w).nextSerial = s.nextSerial := by rw [settle_frame]
@[simp] theorem settle_now (w : Nat) : (s.settle w).now = s.now := by rw [settle_frame]
@[simp] theorem settle_period (w : Nat) : (s.settle w).period = s.period := by rw [settle_frame]
@[simp] theorem settle_requestedPeriod (w : Nat) : (s.settle w).requestedPeriod = s.requestedPeriod := by rw [settle_frame]
@[simp] theorem settle_interrupts (w : Nat) : (s.settle w).interrupts = s.interrupts := by rw [settle_frame]
@[simp] theorem settle_choices (w : Nat) : (s.settle w).choices = s.choices := by rw [settle_frame]
@[simp] theorem settle_pending (w : Nat) : (s.settle w).pending = s.pending := by rw [settle_frame]
@[simp] theorem chan_settle (w : Nat) (k : Nat) : (s.settle w).chan k = s.chan k := by rw [settle_frame]; rfl
@[simp] theorem session_settle (w : Nat) (k : Nat) : (s.settle w).session k = s.session k := by rw [settle_frame]; rfl
@[simp] theorem sessionHandle_settle (w : Nat) (k : Nat) : (s.settle w).sessionHandle k = s.sessionHandle k := by rw [settle_frame]; rfl
@[simp] theorem claim_settle (w : Nat) (k : Nat) : (s.settle w).claim k = s.claim k := by rw [settle_frame]; rfl
@[simp] theorem claimAt_settle (w : Nat) (k : Nat) : (s.settle w).claimAt k = s.claimAt k := by rw [settle_frame]; rfl
@[simp] theorem heldMode_settle (w : Nat) (k : Nat) : (s.settle w).heldMode k = s.heldMode k := by rw [settle_frame]; rfl
@[simp] theorem wantedMode_settle (w : Nat) (k : Nat) : (s.settle w).wantedMode k = s.wantedMode k := by rw [settle_frame]; rfl
@[simp] theorem claimHandle_settle (w : Nat) (k : Nat) : (s.settle w).claimHandle k = s.claimHandle k := by rw [settle_frame]; rfl

/-! ### clearNoticed -/

@[simp] theorem clearNoticed_ready (c : Nat) : (s.clearNoticed c).ready = s.ready := by rw [clearNoticed_frame]
@[simp] theorem clearNoticed_mgmt (c : Nat) : (s.clearNoticed c).mgmt = s.mgmt := by rw [clearNoticed_frame]
@[simp] theorem clearNoticed_lastGranted (c : Nat) : (s.clearNoticed c).lastGranted = s.lastGranted := by rw [clearNoticed_frame]
@[simp] theorem clearNoticed_teardownReplies (c : Nat) : (s.clearNoticed c).teardownReplies = s.teardownReplies := by rw [clearNoticed_frame]
@[simp] theorem clearNoticed_sessions (c : Nat) : (s.clearNoticed c).sessions = s.sessions := by rw [clearNoticed_frame]
@[simp] theorem clearNoticed_ways (c : Nat) : (s.clearNoticed c).ways = s.ways := by rw [clearNoticed_frame]
@[simp] theorem clearNoticed_dormant (c : Nat) : (s.clearNoticed c).dormant = s.dormant := by rw [clearNoticed_frame]
@[simp] theorem clearNoticed_nextSerial (c : Nat) : (s.clearNoticed c).nextSerial = s.nextSerial := by rw [clearNoticed_frame]
@[simp] theorem clearNoticed_now (c : Nat) : (s.clearNoticed c).now = s.now := by rw [clearNoticed_frame]
@[simp] theorem clearNoticed_period (c : Nat) : (s.clearNoticed c).period = s.period := by rw [clearNoticed_frame]
@[simp] theorem clearNoticed_requestedPeriod (c : Nat) : (s.clearNoticed c).requestedPeriod = s.requestedPeriod := by rw [clearNoticed_frame]
@[simp] theorem clearNoticed_interrupts (c : Nat) : (s.clearNoticed c).interrupts = s.interrupts := by rw [clearNoticed_frame]
@[simp] theorem clearNoticed_choices (c : Nat) : (s.clearNoticed c).choices = s.choices := by rw [clearNoticed_frame]
@[simp] theorem clearNoticed_pending (c : Nat) : (s.clearNoticed c).pending = s.pending := by rw [clearNoticed_frame]
@[simp] theorem session_clearNoticed (c : Nat) (k : Nat) : (s.clearNoticed c).session k = s.session k := by rw [clearNoticed_frame]; rfl
@[simp] theorem sessionHandle_clearNoticed (c : Nat) (k : Nat) : (s.clearNoticed c).sessionHandle k = s.sessionHandle k := by rw [clearNoticed_frame]; rfl
@[simp] theorem way_clearNoticed (c : Nat) (k : Nat) : (s.clearNoticed c).way k = s.way k := by rw [clearNoticed_frame]; rfl
@[simp] theorem entry_clearNoticed (c : Nat) (k : Nat) : (s.clearNoticed c).entry k = s.entry k := by rw [clearNoticed_frame]; rfl
@[simp] theorem dormantOrder_clearNoticed (c : Nat) (k : Nat) : (s.clearNoticed c).dormantOrder k = s.dormantOrder k := by rw [clearNoticed_frame]; rfl

/-! ### endConversion -/

@[simp] theorem endConversion_ready (c : Nat) : (s.endConversion c).ready = s.ready := by rw [endConversion_frame]
@[simp] theorem endConversion_mgmt (c : Nat) : (s.endConversion c).mgmt = s.mgmt := by rw [endConversion_frame]
@[simp] theorem endConversion_channels (c : Nat) : (s.endConversion c).channels = s.channels := by rw [endConversion_frame]
@[simp] theorem endConversion_lastGranted (c : Nat) : (s.endConversion c).lastGranted = s.lastGranted := by rw [endConversion_frame]
@[simp] theorem endConversion_teardownReplies (c : Nat) : (s.endConversion c).teardownReplies = s.teardownReplies := by rw [endConversion_frame]
@[simp] theorem endConversion_sessions (c : Nat) : (s.endConversion c).sessions = s.sessions := by rw [endConversion_frame]
@[simp] theorem endConversion_dormant (c : Nat) : (s.endConversion c).dormant = s.dormant := by rw [endConversion_frame]
@[simp] theorem endConversion_nextSerial (c : Nat) : (s.endConversion c).nextSerial = s.nextSerial := by rw [endConversion_frame]
@[simp] theorem endConversion_now (c : Nat) : (s.endConversion c).now = s.now := by rw [endConversion_frame]
@[simp] theorem endConversion_period (c : Nat) : (s.endConversion c).period = s.period := by rw [endConversion_frame]
@[simp] theorem endConversion_requestedPeriod (c : Nat) : (s.endConversion c).requestedPeriod = s.requestedPeriod := by rw [endConversion_frame]
@[simp] theorem endConversion_interrupts (c : Nat) : (s.endConversion c).interrupts = s.interrupts := by rw [endConversion_frame]
@[simp] theorem endConversion_choices (c : Nat) : (s.endConversion c).choices = s.choices := by rw [endConversion_frame]
@[simp] theorem endConversion_pending (c : Nat) : (s.endConversion c).pending = s.pending := by rw [endConversion_frame]
@[simp] theorem chan_endConversion (c : Nat) (k : Nat) : (s.endConversion c).chan k = s.chan k := by rw [endConversion_frame]; rfl
@[simp] theorem session_endConversion (c : Nat) (k : Nat) : (s.endConversion c).session k = s.session k := by rw [endConversion_frame]; rfl
@[simp] theorem sessionHandle_endConversion (c : Nat) (k : Nat) : (s.endConversion c).sessionHandle k = s.sessionHandle k := by rw [endConversion_frame]; rfl
@[simp] theorem dormantOrder_endConversion (c : Nat) (k : Nat) : (s.endConversion c).dormantOrder k = s.dormantOrder k := by rw [endConversion_frame]; rfl

/-! ### freeClaim -/

@[simp] theorem freeClaim_ready (c : Nat) : (s.freeClaim c).ready = s.ready := by rw [freeClaim_frame]
@[simp] theorem freeClaim_mgmt (c : Nat) : (s.freeClaim c).mgmt = s.mgmt := by rw [freeClaim_frame]
@[simp] theorem freeClaim_lastGranted (c : Nat) : (s.freeClaim c).lastGranted = s.lastGranted := by rw [freeClaim_frame]
@[simp] theorem freeClaim_teardownReplies (c : Nat) : (s.freeClaim c).teardownReplies = s.teardownReplies := by rw [freeClaim_frame]
@[simp] theorem freeClaim_dormant (c : Nat) : (s.freeClaim c).dormant = s.dormant := by rw [freeClaim_frame]
@[simp] theorem freeClaim_nextSerial (c : Nat) : (s.freeClaim c).nextSerial = s.nextSerial := by rw [freeClaim_frame]
@[simp] theorem freeClaim_now (c : Nat) : (s.freeClaim c).now = s.now := by rw [freeClaim_frame]
@[simp] theorem freeClaim_period (c : Nat) : (s.freeClaim c).period = s.period := by rw [freeClaim_frame]
@[simp] theorem freeClaim_requestedPeriod (c : Nat) : (s.freeClaim c).requestedPeriod = s.requestedPeriod := by rw [freeClaim_frame]
@[simp] theorem freeClaim_interrupts (c : Nat) : (s.freeClaim c).interrupts = s.interrupts := by rw [freeClaim_frame]
@[simp] theorem freeClaim_choices (c : Nat) : (s.freeClaim c).choices = s.choices := by rw [freeClaim_frame]
@[simp] theorem freeClaim_pending (c : Nat) : (s.freeClaim c).pending = s.pending := by rw [freeClaim_frame]
@[simp] theorem dormantOrder_freeClaim (c : Nat) (k : Nat) : (s.freeClaim c).dormantOrder k = s.dormantOrder k := by rw [freeClaim_frame]; rfl

/-! ### hold -/

@[simp] theorem hold_ready (c w : Nat) (m : Mode) : (s.hold c w m).ready = s.ready := by rw [hold_frame]
@[simp] theorem hold_mgmt (c w : Nat) (m : Mode) : (s.hold c w m).mgmt = s.mgmt := by rw [hold_frame]
@[simp] theorem hold_channels (c w : Nat) (m : Mode) : (s.hold c w m).channels = s.channels := by rw [hold_frame]
@[simp] theorem hold_lastGranted (c w : Nat) (m : Mode) : (s.hold c w m).lastGranted = s.lastGranted := by rw [hold_frame]
@[simp] theorem hold_teardownReplies (c w : Nat) (m : Mode) : (s.hold c w m).teardownReplies = s.teardownReplies := by rw [hold_frame]
@[simp] theorem hold_sessions (c w : Nat) (m : Mode) : (s.hold c w m).sessions = s.sessions := by rw [hold_frame]
@[simp] theorem hold_dormant (c w : Nat) (m : Mode) : (s.hold c w m).dormant = s.dormant := by rw [hold_frame]
@[simp] theorem hold_now (c w : Nat) (m : Mode) : (s.hold c w m).now = s.now := by rw [hold_frame]
@[simp] theorem hold_period (c w : Nat) (m : Mode) : (s.hold c w m).period = s.period := by rw [hold_frame]
@[simp] theorem hold_requestedPeriod (c w : Nat) (m : Mode) : (s.hold c w m).requestedPeriod = s.requestedPeriod := by rw [hold_frame]
@[simp] theorem hold_interrupts (c w : Nat) (m : Mode) : (s.hold c w m).interrupts = s.interrupts := by rw [hold_frame]
@[simp] theorem hold_choices (c w : Nat) (m : Mode) : (s.hold c w m).choices = s.choices := by rw [hold_frame]
@[simp] theorem hold_pending (c w : Nat) (m : Mode) : (s.hold c w m).pending = s.pending := by rw [hold_frame]
@[simp] theorem chan_hold (c w : Nat) (m : Mode) (k : Nat) : (s.hold c w m).chan k = s.chan k := by rw [hold_frame]; rfl
@[simp] theorem session_hold (c w : Nat) (m : Mode) (k : Nat) : (s.hold c w m).session k = s.session k := by rw [hold_frame]; rfl
@[simp] theorem sessionHandle_hold (c w : Nat) (m : Mode) (k : Nat) : (s.hold c w m).sessionHandle k = s.sessionHandle k := by rw [hold_frame]; rfl
@[simp] theorem dormantOrder_hold (c w : Nat) (m : Mode) (k : Nat) : (s.hold c w m).dormantOrder k = s.dormantOrder k := by rw [hold_frame]; rfl

/-! ### allocate -/

@[simp] theorem allocate_ready (c i w : Nat) (st : ClaimState) : (s.allocate c i w st).ready = s.ready := by rw [allocate_frame]
@[simp] theorem allocate_mgmt (c i w : Nat) (st : ClaimState) : (s.allocate c i w st).mgmt = s.mgmt := by rw [allocate_frame]
@[simp] theorem allocate_channels (c i w : Nat) (st : ClaimState) : (s.allocate c i w st).channels = s.channels := by rw [allocate_frame]
@[simp] theorem allocate_lastGranted (c i w : Nat) (st : ClaimState) : (s.allocate c i w st).lastGranted = s.lastGranted := by rw [allocate_frame]
@[simp] theorem allocate_teardownReplies (c i w : Nat) (st : ClaimState) : (s.allocate c i w st).teardownReplies = s.teardownReplies := by rw [allocate_frame]
@[simp] theorem allocate_dormant (c i w : Nat) (st : ClaimState) : (s.allocate c i w st).dormant = s.dormant := by rw [allocate_frame]
@[simp] theorem allocate_nextSerial (c i w : Nat) (st : ClaimState) : (s.allocate c i w st).nextSerial = s.nextSerial := by rw [allocate_frame]
@[simp] theorem allocate_now (c i w : Nat) (st : ClaimState) : (s.allocate c i w st).now = s.now := by rw [allocate_frame]
@[simp] theorem allocate_period (c i w : Nat) (st : ClaimState) : (s.allocate c i w st).period = s.period := by rw [allocate_frame]
@[simp] theorem allocate_requestedPeriod (c i w : Nat) (st : ClaimState) : (s.allocate c i w st).requestedPeriod = s.requestedPeriod := by rw [allocate_frame]
@[simp] theorem allocate_interrupts (c i w : Nat) (st : ClaimState) : (s.allocate c i w st).interrupts = s.interrupts := by rw [allocate_frame]
@[simp] theorem allocate_pending (c i w : Nat) (st : ClaimState) : (s.allocate c i w st).pending = s.pending := by rw [allocate_frame]
@[simp] theorem chan_allocate (c i w : Nat) (st : ClaimState) (k : Nat) : (s.allocate c i w st).chan k = s.chan k := by rw [allocate_frame]; rfl
@[simp] theorem dormantOrder_allocate (c i w : Nat) (st : ClaimState) (k : Nat) : (s.allocate c i w st).dormantOrder k = s.dormantOrder k := by rw [allocate_frame]; rfl

end Sys2Proof.Machine.State
end

