-- ==== Sys2Proof/Laws/Records.lean ====
section
/-! SUPPORT. What the shared operations leave in the records they change: one equation for each record read after each
operation. -/

namespace Sys2Proof.Machine

/-- A way with its entry changed by `f` if it is ACTIVE. -/
def Way.update (x : Way) (f : Entry → Entry) : Way :=
  match x with
  | .active e => .active (f e)
  | .free => .free
  | .dormant e => .dormant e

theorem Way.update_id (x : Way) : (x.update fun e => e) = x := by
  cases x <;> rfl

/-- The state of a claim whose conversion, if it has one, has ended without a grant (R58). -/
def ClaimState.ended : ClaimState → ClaimState
  | .converting m _ _ => .held m
  | .waiting m w => .waiting m w
  | .held m => .held m

/-- Whether a claim in this state is CONVERTING. -/
def ClaimState.isConverting : ClaimState → Bool
  | .converting _ _ _ => true
  | .waiting _ _ => false
  | .held _ => false

namespace State

variable (s : State)

theorem way_modEntry' (w k : Nat) (f : Entry → Entry) :
    (s.modEntry w f).way k = if k = w then (s.way w).update f else s.way k := s.way_modEntry w k f

/-! ### Grants -/

theorem claimAt_hold (c w k : Nat) (m : Mode) : (s.hold c w m).claimAt k =
    if k = c then (s.claimAt c).map fun b =>
      { b with state := .held m, serial := if m = .exclusive then s.nextSerial.or b.serial else b.serial }
    else s.claimAt k := by
  unfold hold draw
  dsimp only
  by_cases hm : m = .exclusive
  · rw [if_pos hm]
    rw [modClaim_nextSerial]
    split
    · rename_i n hn
      show ((((s.modClaim c _).modClaim c _).modEntry w _).claimAt k) = _
      rw [claimAt_modEntry, claimAt_modClaim, claimAt_modClaim, claimAt_modClaim]
      split_ifs <;> simp_all
      · cases s.claimAt c <;> simp_all
    · rename_i hn
      rw [claimAt_modClaim]
      split_ifs
      · rw [hn]; cases s.claimAt c <;> simp
      · rfl
  · rw [if_neg hm, claimAt_modClaim]
    split_ifs <;> rfl

theorem way_hold (c w k : Nat) (m : Mode) : (s.hold c w m).way k =
    if k = w then (s.way w).update fun e =>
      { e with serial := if m = .exclusive then s.nextSerial.getD e.serial else e.serial }
    else s.way k := by
  unfold hold draw
  dsimp only
  by_cases hm : m = .exclusive
  · rw [if_pos hm]
    rw [modClaim_nextSerial]
    split
    · rename_i n hn
      show ((((s.modClaim c _).modClaim c _).modEntry w _).way k) = _
      rw [way_modEntry', way_modClaim, way_modClaim, way_modClaim, way_modClaim]
      simp [hn, hm]
    · rename_i hn
      rw [way_modClaim]
      split_ifs
      · simp only [hn, Option.getD_none]; subst_vars; exact (Way.update_id _).symm
      · rfl
  · rw [if_neg hm, way_modClaim]
    split_ifs
    · subst_vars; exact (Way.update_id _).symm
    · rfl

theorem nextSerial_hold (c w : Nat) (m : Mode) : (s.hold c w m).nextSerial =
    if m = .exclusive then s.nextSerial.bind fun n => if n = BitVec.allOnes 48 then none else some (n + 1)
    else s.nextSerial := by
  unfold hold draw
  dsimp only
  split_ifs with hm
  · rw [modClaim_nextSerial]
    split
    · rename_i n hn; rw [hn]; rfl
    · rename_i hn; rw [modClaim_nextSerial, hn]; rfl
  · simp

/-! ### The freeing of claims and the ends of waits -/

theorem claimAt_freeClaim (c k : Nat) : (s.freeClaim c).claimAt k = if k = c then none else s.claimAt k := by
  unfold freeClaim
  split
  · rw [claimAt_setClaim, modOpen_frame, modEntry_frame, dropContention_frame]
    rfl
  · rename_i h
    split
    · subst_vars; exact h
    · rfl

theorem way_freeClaim (c k : Nat) : (s.freeClaim c).way k =
    if ∃ b, s.claimAt c = some b ∧ b.way = k then (s.way k).update (Entry.without c) else s.way k := by
  unfold freeClaim
  split
  · rename_i b hb
    rw [way_setClaim, way_modOpen, way_modEntry', dropContention_frame]
    by_cases hk : k = b.way
    · rw [if_pos hk, if_pos ⟨b, hb, hk.symm⟩, hk]; rfl
    · rw [if_neg hk, if_neg]
      · rfl
      · rintro ⟨b', hb', h⟩; rw [hb] at hb'; cases hb'; exact hk h.symm
  · rename_i hn
    rw [if_neg]
    rintro ⟨b, hb, -⟩; rw [hn] at hb; cases hb

theorem session_freeClaim (c k : Nat) : (s.freeClaim c).session k =
    if ∃ b, s.claimAt c = some b ∧ b.session = k then
      match (s.session k).state with
      | .opened o => ⟨(s.session k).tag, .opened { o with claims := o.claims.filter (· != c) }⟩
      | .free => s.session k
      | .lapsed _ => s.session k
    else s.session k := by
  unfold freeClaim
  split
  · rename_i b hb
    rw [session_setClaim, session_modOpen, session_modEntry, dropContention_frame]
    by_cases hk : k = b.session
    · rw [if_pos hk, if_pos ⟨b, hb, hk.symm⟩, hk]; rfl
    · rw [if_neg hk, if_neg, session_modEntry]
      · rfl
      · rintro ⟨b', hb', h⟩; rw [hb] at hb'; cases hb'; exact hk h.symm
  · rename_i hn
    rw [if_neg]
    rintro ⟨b, hb, -⟩; rw [hn] at hb; cases hb

theorem claimAt_endConversion (c k : Nat) : (s.endConversion c).claimAt k =
    if k = c then (s.claimAt c).map fun b => { b with state := b.state.ended } else s.claimAt k := by
  unfold endConversion
  split
  · rename_i b hb
    split <;> rename_i hst
    · rw [claimAt_modClaim, claimAt_modEntry, claimAt_modEntry, hb]
      simp [hst, ClaimState.ended]
    · split_ifs
      · subst_vars; rw [hb]; cases b; simp_all [ClaimState.ended]
      · rfl
    · split_ifs
      · subst_vars; rw [hb]; cases b; simp_all [ClaimState.ended]
      · rfl
  · rename_i hb
    split_ifs
    · subst_vars; rw [hb]; rfl
    · rfl

theorem way_endConversion (c k : Nat) : (s.endConversion c).way k =
    if (s.claimAt c).any fun b => b.way == k && b.state.isConverting then
      (s.way k).update fun e => { e with converts := e.converts.filter (· != c) }
    else s.way k := by
  unfold endConversion
  split
  · rename_i b hb
    split <;> rename_i hst
    · rw [way_modClaim, way_modEntry', hb]
      by_cases hk : k = b.way
      · subst hk; simp [hst, ClaimState.isConverting]
      · simp [hk, Ne.symm hk]
    · simp [hb, hst, ClaimState.isConverting]
    · simp [hb, hst, ClaimState.isConverting]
  · rename_i hn
    simp [hn]

/-! ### Allocation -/

theorem claimAt_allocate (c i w k : Nat) (st : ClaimState) : (s.allocate c i w st).claimAt k =
    if k = c then some ⟨i, w, st, none, false⟩ else s.claimAt k := by
  unfold allocate
  dsimp only
  show (State.claimAt (State.modEntry _ w _) k) = _
  rw [claimAt_modEntry, claimAt_modOpen, claimAt_setClaim]

theorem way_allocate (c i w k : Nat) (st : ClaimState) : (s.allocate c i w st).way k =
    if k = w then (s.way w).update fun e =>
      if st.heldMode.isSome then { e with holders := e.holders ++ [c] } else { e with waits := e.waits ++ [c] }
    else s.way k := by
  unfold allocate
  dsimp only
  show (State.way (State.modEntry _ w _) k) = _
  rw [way_modEntry', way_modOpen, way_setClaim, way_modOpen, way_setClaim]

theorem session_allocate (c i w k : Nat) (st : ClaimState) : (s.allocate c i w st).session k =
    if k = i then match (s.session i).state with
      | .opened o => ⟨(s.session i).tag, .opened { o with claims := o.claims ++ [c] }⟩
      | .free => s.session i
      | .lapsed _ => s.session i
    else s.session k := by
  unfold allocate
  dsimp only
  show (State.session (State.modEntry _ w _) k) = _
  rw [session_modEntry, session_modOpen, session_setClaim, session_setClaim]
  all_goals rfl

/-! ### Ways -/

/-- What becomes of a way at the end of an event at it (R14, R15). -/
theorem way_settle (w k : Nat) : (s.settle w).way k =
    if k = w then match s.way w with
      | .active e =>
        if e.holders = [] ∧ e.converts = [] ∧ e.waits = [] then
          if e.value = .absent then .free else .dormant e
        else .active e
      | .free => .free
      | .dormant e => .dormant e
    else s.way k := by
  unfold settle
  rcases he : s.way w with _ | e | e <;> dsimp only
  · split_ifs
    · subst_vars; exact he
    · rfl
  · by_cases hl : e.holders = [] ∧ e.converts = [] ∧ e.waits = []
    · rw [if_pos hl, if_pos hl]
      rcases hv : e.value with _ | v | v <;> simp
    · rw [if_neg hl, if_neg hl]
      split_ifs
      · subst_vars; exact he
      · rfl
  · split_ifs
    · subst_vars; exact he
    · rfl

/-- A way that becomes DORMANT joins the tail of its bucket's dormant order (R16). -/
theorem dormantOrder_settle (w b : Nat) : (s.settle w).dormantOrder b =
    match s.way w with
    | .active e =>
      if (e.holders = [] ∧ e.converts = [] ∧ e.waits = []) ∧ e.value ≠ .absent ∧ b = bucketOf w then
        s.dormantOrder b ++ [w]
      else s.dormantOrder b
    | .free => s.dormantOrder b
    | .dormant _ => s.dormantOrder b := by
  unfold settle
  rcases he : s.way w with _ | e | e <;> dsimp only
  by_cases hl : e.holders = [] ∧ e.converts = [] ∧ e.waits = []
  · rw [if_pos hl]
    rcases hv : e.value with _ | v | v <;> dsimp only
    · simp
    · by_cases hb : b = bucketOf w
      · subst hb; simp [hl]
      · simp [hb]
    · by_cases hb : b = bucketOf w
      · subst hb; simp [hl]
      · simp [hb]
  · rw [if_neg hl, if_neg (fun h => hl h.1)]

theorem way_leaveDormant (w k : Nat) (x : Way) : (s.leaveDormant w x).way k = if k = w then x else s.way k := by
  unfold leaveDormant
  rw [way_setWay, way_setDormant]

theorem dormantOrder_leaveDormant (w b : Nat) (x : Way) : (s.leaveDormant w x).dormantOrder b =
    if b = bucketOf w then (s.dormantOrder b).filter (· != w) else s.dormantOrder b := by
  unfold leaveDormant
  rw [dormantOrder_setWay, dormantOrder_setDormant]
  split_ifs
  · subst_vars; rfl
  · rfl

theorem way_createAt (w k : Nat) (key : Key) : (s.createAt w key).way k =
    if k = w then .active { Entry.blank with key := key } else s.way k := by
  unfold createAt
  rw [way_setWay]

end State
end Sys2Proof.Machine
end

