-- ==== Sys2Proof/Laws/Core.lean ====
section
/-! SUPPORT. What the parts that many commands share can do, said once: a reply, a notice, the end of a wait, a grant
pass, a withdrawal is a chain of the core moves below. Not one of them changes a channel's state, allocates a claim, or
changes a session but for its claim list and its pending-notice flag. -/

namespace Sys2Proof.Machine

/-- One indivisible change that a part of a command makes while every channel keeps its state. -/
inductive CoreMove : State → State → Prop where
  /-- A reply is written into its reservation (R130). -/
  | answer {s : State} {ch : Nat} (r : Reply) : (s.chan ch).state = .active →
      CoreMove s (s.setChan ch { (s.chan ch).issue r.bytes with owed := (s.chan ch).owed - 1 })
  /-- A notice is written at once (R142). -/
  | notice {s : State} {ch : Nat} (n : Notice) : (s.chan ch).state = .active → (s.chan ch).notices = [] →
      1 ≤ (s.chan ch).unreserved → CoreMove s (s.setChan ch ((s.chan ch).issue n.bytes))
  /-- A notice joins the pending-notice list (R142). -/
  | keep {s : State} {ch : Nat} (n : Notice) : (s.chan ch).state = .active →
      CoreMove s (s.setChan ch { s.chan ch with notices := (s.chan ch).notices ++ [n] })
  /-- A notice is written from the head of the list (R146). -/
  | unkeep {s : State} {ch : Nat} {n : Notice} {rest : List Notice} : (s.chan ch).state = .active →
      (s.chan ch).notices = n :: rest → 1 ≤ (s.chan ch).unreserved →
      CoreMove s (s.setChan ch { (s.chan ch).issue n.bytes with notices := rest })
  /-- Notices are dropped (R147). -/
  | drop {s : State} (ch : Nat) (p : Notice → Bool) : CoreMove s (s.dropNotices ch p)
  /-- A lapse-notice pending flag is set or cleared (R83). -/
  | mark {s : State} (n : Notice) (b : Bool) : CoreMove s (s.markLapse n b)
  /-- An interrupt message is sent (R174). -/
  | interrupt {s : State} (v : Nat) : CoreMove s { s with interrupts := s.interrupts ++ [v] }
  /-- The armed flag is cleared (R135). -/
  | disarm {s : State} (ch : Nat) : CoreMove s (s.disarm ch)
  /-- The model's count of free choices. -/
  | choose {s : State} (k : Nat) : CoreMove s { s with choices := k }
  /-- A lapse-notice pending flag is cleared at a fault (R136). -/
  | unpend {s : State} {i : Nat} {l : LapsedSession} : (s.session i).state = .lapsed l →
      CoreMove s (s.setSession i ⟨(s.session i).tag, .lapsed { l with noticePending := false }⟩)
  /-- The changes of a claim (R23). -/
  | noticed {s : State} (c : Nat) (b : Bool) : CoreMove s (s.modClaim c fun x => { x with noticed := b })
  | conversionGranted {s : State} {c w : Nat} {h m : Mode} {wait : Wait} {b : Claim} {rest : List Nat} :
      (s.entry w).converts = c :: rest → s.claimAt c = some b → b.state = .converting h m wait →
      s.admits (s.entry w) m (some c) = true → (m = .exclusive → s.nextSerial ≠ none) →
      CoreMove s ((s.modEntry w fun e => { e with converts := e.converts.filter (· != c) }).hold c w m)
  | waitGranted {s : State} {c w : Nat} {m : Mode} {wait : Wait} {b : Claim} {rest : List Nat} :
      (s.entry w).converts = [] → (s.entry w).waits = c :: rest → s.claimAt c = some b → b.state = .waiting m wait →
      s.admits (s.entry w) m none = true → (m = .exclusive → s.nextSerial ≠ none) →
      CoreMove s ((s.modEntry w fun e =>
        { e with waits := e.waits.filter (· != c), holders := e.holders ++ [c] }).hold c w m)
  | conversionEnded {s : State} (c : Nat) : CoreMove s (s.endConversion c)
  | freed {s : State} (c : Nat) : CoreMove s (s.freeClaim c)
  /-- The changes of a way (R3, R14). -/
  | valued {s : State} (w : Nat) (f : ValueBlock → ValueBlock) : (∀ v, f v = .absent → v = .absent) →
      CoreMove s (s.modEntry w fun e => { e with value := f e.value })
  | settled {s : State} (w : Nat) : CoreMove s (s.settle w)

/-- A chain of core moves. -/
abbrev Core : State → State → Prop := Relation.ReflTransGen CoreMove

theorem Core.one {s t : State} (h : CoreMove s t) : Core s t := .single h

theorem core_foldl {α : Type} (f : State → α → State) (hf : ∀ s a, Core s (f s a)) (l : List α) (s : State) :
    Core s (l.foldl f s) := by
  induction l generalizing s with
  | nil => exact .refl
  | cons a l ih => exact (hf s a).trans (ih _)

/-! ### Replies and notices -/

theorem core_hand (s : State) (ch : Nat) (r : Reply) : Core s (s.hand ch r) := by
  unfold State.hand
  split
  · exact .single (.answer r ‹_›)
  · exact .refl

theorem core_reply (s : State) (ch : Nat) (k : Kind) (tag : ReqTag) (st : Status) :
    Core s (s.reply ch k tag st) := core_hand ..

theorem core_handClaim (s : State) (c : Nat) (r : Reply) : Core s (s.handClaim c r) := by
  unfold State.handClaim
  split
  · exact core_hand ..
  · exact .refl

theorem core_sendInterrupt (s : State) (ch : Nat) : Core s (s.sendInterrupt ch) := by
  unfold State.sendInterrupt
  split
  · exact .single (.interrupt _)
  · exact .refl

theorem core_raise (s : State) (ch : Nat) (n : Notice) : Core s (s.raise ch n) := by
  unfold State.raise
  dsimp only
  split
  · split
    · exact .single (.notice n ‹_› (by tauto) (by tauto))
    · exact (Core.one (.keep n ‹_›)).tail (.mark n true)
  · exact .refl

theorem core_dropContention (s : State) (c : Nat) : Core s (s.dropContention c) := by
  unfold State.dropContention
  split
  · exact .single (.drop ..)
  · exact .refl

theorem core_clearNoticed (s : State) (c : Nat) : Core s (s.clearNoticed c) :=
  (Core.one (.noticed c false)).trans (core_dropContention ..)

theorem core_repeatTurn {turn : State → Option State} (hf : ∀ s t, turn s = some t → Core s t) (fuel : Nat)
    (s : State) : Core s (repeatTurn turn fuel s) := by
  induction fuel generalizing s with
  | zero => exact .refl
  | succ n ih =>
    unfold repeatTurn
    split
    · exact (hf _ _ ‹_›).trans (ih _)
    · exact .refl

theorem core_noticeTurn {s t : State} {ch : Nat} (h : s.noticeTurn ch = some t) (ha : (s.chan ch).state = .active) :
    Core s t := by
  unfold State.noticeTurn at h
  split at h
  · split at h
    · cases h
      exact (Core.one (.unkeep ha ‹_› ‹_›)).tail (.mark _ false)
    · cases h
  · cases h

/-! ### The ends of waits and the grant pass -/

theorem core_answer (s : State) (c : Nat) (st : Status) (full : Bool) : Core s (s.answer c st full) := by
  unfold State.answer
  split
  · split
    · exact core_handClaim ..
    · exact core_handClaim ..
    · exact .refl
  · exact .refl

theorem core_endWait (s : State) (c : Nat) (st : Status) : Core s (s.endWait c st) := by
  unfold State.endWait
  split
  · split
    · exact (core_answer ..).tail (.freed c)
    · exact (core_answer ..).tail (.conversionEnded c)
    · exact .refl
  · exact .refl

/-! ### The grant pass -/

theorem claimAt_eq_of_claims {s t : State} (h : t.claims = s.claims) (c : Nat) : t.claimAt c = s.claimAt c := by
  unfold State.claimAt State.claim
  rw [h]

theorem heldMode_of_claims {s t : State} (h : ∀ c, (t.claimAt c).map (·.state) = (s.claimAt c).map (·.state)) (c : Nat) :
    t.heldMode c = s.heldMode c := by
  have := h c
  unfold State.heldMode
  cases ht : t.claimAt c <;> cases hs : s.claimAt c <;> simp_all

theorem admits_of_heldMode {s t : State} (h : ∀ c, t.heldMode c = s.heldMode c) (e : Entry) (m : Mode)
    (x : Option Nat) : t.admits e m x = s.admits e m x := by
  unfold State.admits
  simp only [h]

/-- What a change of the noticed flag leaves: every claim's state, and the entries. -/
theorem state_clearNoticed (s : State) (c k : Nat) :
    ((s.clearNoticed c).claimAt k).map (·.state) = (s.claimAt k).map (·.state) := by
  rw [claimAt_eq_of_claims (s.claims_clearNoticed c), s.claimAt_modClaim]
  split
  · subst_vars; cases s.claimAt k <;> rfl
  · rfl

theorem claimAt_clearNoticed {s : State} {c k : Nat} {b : Claim} (h : s.claimAt k = some b) :
    ∃ b', (s.clearNoticed c).claimAt k = some b' ∧ b'.state = b.state ∧ b'.way = b.way ∧ b'.session = b.session ∧
      b'.serial = b.serial := by
  rw [claimAt_eq_of_claims (s.claims_clearNoticed c), s.claimAt_modClaim]
  split
  · subst_vars; rw [h]; exact ⟨_, rfl, rfl, rfl, rfl, rfl⟩
  · exact ⟨b, h, rfl, rfl, rfl, rfl⟩

theorem admits_clearNoticed (s : State) (c : Nat) (e : Entry) (m : Mode) (x : Option Nat) :
    (s.clearNoticed c).admits e m x = s.admits e m x :=
  admits_of_heldMode (heldMode_of_claims (state_clearNoticed s c)) e m x

theorem entry_clearNoticed (s : State) (c w : Nat) : (s.clearNoticed c).entry w = s.entry w := by
  rw [State.clearNoticed_frame]; rfl

theorem nextSerial_clearNoticed (s : State) (c : Nat) : (s.clearNoticed c).nextSerial = s.nextSerial := by
  rw [State.clearNoticed_frame]

theorem core_convertTurn {s t : State} {w : Nat} (h : s.convertTurn w = some t) : Core s t := by
  unfold State.convertTurn at h
  split at h
  · cases h
  · rename_i c rest hq
    split at h
    · rename_i b hb
      split at h
      · rename_i o m wait hst
        split_ifs at h with h1 h2
        · cases h; exact core_endWait ..
        · cases h
          obtain ⟨b', hb', hs', -⟩ := claimAt_clearNoticed (c := c) hb
          refine (core_clearNoticed s c).trans (.trans (.single (.conversionGranted (rest := rest) ?_ hb' (hs'.trans hst) ?_ ?_))
            (core_handClaim ..))
          · rw [entry_clearNoticed, hq]
          · rw [admits_clearNoticed, entry_clearNoticed, h2]
          · rw [nextSerial_clearNoticed]; tauto
      · cases h
      · cases h
    · cases h

theorem core_waitTurn {s t : State} {w : Nat} (h : s.waitTurn w = some t) : Core s t := by
  unfold State.waitTurn at h
  split at h
  · cases h
  rename_i h0
  split at h
  · cases h
  · rename_i c rest hq
    split at h
    · rename_i b hb
      split at h
      · rename_i m wait hst
        split_ifs at h with h1 h2
        · cases h; exact core_endWait ..
        · cases h
          exact (Core.one (.waitGranted (by simpa using h0) hq hb hst h2 (by tauto))).trans (core_handClaim ..)
      · cases h
      · cases h
    · cases h

theorem core_tell (s : State) (w head : Nat) (q : QueueKind) (c : Nat) : Core s (s.tell w head q c) := by
  unfold State.tell
  split
  · split
    · split
      · exact (core_raise ..).tail (.noticed c true)
      · exact .refl
    · exact .refl
  · exact .refl

theorem core_tellHolders (s : State) (w : Nat) : Core s (s.tellHolders w) := by
  unfold State.tellHolders
  split
  · exact core_foldl _ (fun s c => core_tell ..) _ _
  · exact .refl

theorem core_grantPass (s : State) (w : Nat) : Core s (s.grantPass w) :=
  ((core_repeatTurn (fun _ _ => core_convertTurn) _ _).trans
    (core_repeatTurn (fun _ _ => core_waitTurn) _ _)).trans (core_tellHolders ..)

theorem core_finish (s : State) (w : Nat) : Core s (s.finish w) := (core_grantPass s w).tail (.settled w)

/-! ### Withdrawals -/

theorem invalidated_absent (v : ValueBlock) : v.invalidated = .absent → v = .absent := by
  cases v <;> simp [ValueBlock.invalidated]

theorem written_absent (p i : Bool) (x : ValueWord) (v : ValueBlock) : v.written p i x = .absent → v = .absent := by
  unfold ValueBlock.written
  split_ifs
  · simp
  · exact invalidated_absent v
  · exact id

theorem core_withdraw (s : State) (c : Nat) (st : Option Status) (inv : Bool) :
    Core s (s.withdraw c st inv) := by
  unfold State.withdraw
  split
  · rename_i b hb
    dsimp only
    have h1 : Core s ((match st with | some x => s.answer c x false | none => s).freeClaim c) := by
      cases st
      · exact .single (.freed c)
      · exact (core_answer ..).tail (.freed c)
    split_ifs
    · exact h1.tail (.valued b.way ValueBlock.invalidated invalidated_absent)
    · exact h1
  · exact .refl

theorem core_withdrawPart (s : State) (c : Nat) (st : Option Status) (inv : Bool) :
    Core s (s.withdrawPart c st inv) := by
  unfold State.withdrawPart
  split
  · exact (core_withdraw ..).trans (core_finish ..)
  · exact .refl

theorem core_withdrawWait (s : State) (c : Nat) : Core s (s.withdrawWait c) := by
  unfold State.withdrawWait
  split
  · split
    · exact .single (.freed c)
    · exact .single (.conversionEnded c)
    · exact .refl
  · exact .refl

theorem core_withdrawAll (s : State) (lists : List (List Nat)) (l : List Nat) {f : State → Nat → State} (hf : ∀ s c, Core s (f s c)) :
    Core s (s.withdrawAll lists l f) := by
  unfold State.withdrawAll
  dsimp only
  exact .trans (.single (.choose _))
    (core_foldl _ (fun s p => (core_foldl _ hf _ _).trans (core_finish ..)) _ _)

theorem core_failConversions (s : State) (w : Nat) : Core s (s.failConversions w) :=
  core_foldl _ (fun _ _ => core_endWait ..) _ _

theorem core_retell (s : State) (c : Nat) : Core s (s.retell c) := by
  unfold State.retell
  split
  · split
    · exact core_tell ..
    · exact .refl
  · exact .refl

theorem core_clearFlags (s : State) (ch : Nat) : Core s (s.clearFlags ch) := by
  unfold State.clearFlags
  dsimp only
  refine (core_foldl _ (fun s c => .single (.noticed c false)) _ _).trans (core_foldl _ (fun s i => ?_) _ _)
  split
  · exact .single (.unpend ‹_›)
  · exact .refl
  · exact .refl

/-! ### What core moves leave -/
theorem coreMove_frame {s t : State} (h : CoreMove s t) : s.sameFrame t := by
  refine ⟨?_, ?_⟩
  · intro n
    cases h
    case answer ch r ha => rw [State.chan_setChan]; split_ifs <;> simp_all [Channel.issue]
    case notice ch r ha h1 h2 => rw [State.chan_setChan]; split_ifs <;> simp_all [Channel.issue]
    case keep ch r ha => rw [State.chan_setChan]; split_ifs <;> simp_all [Channel.issue]
    case unkeep ch r rest ha h1 h2 => rw [State.chan_setChan]; split_ifs <;> simp_all [Channel.issue]
    case drop ch p => rw [State.chan_dropNotices]; split_ifs <;> simp_all
    case disarm ch => unfold State.disarm; rw [State.chan_setChan]; split_ifs <;> simp_all
    case freed c =>
      unfold State.freeClaim; split
      · simp; unfold State.dropContention; split
        · rw [State.chan_dropNotices]; split_ifs <;> simp_all
        · rfl
      · rfl
    all_goals first | rfl | simp
  · cases h <;> simp

/-- The states of the channels, time, periods, registers and the queue stay. -/
theorem core_frame {s t : State} (h : Core s t) : s.sameFrame t := by
  induction h with
  | refl => exact ⟨fun _ => rfl, rfl, rfl, rfl, rfl, rfl, rfl⟩
  | tail _ h ih =>
    obtain ⟨a1, a2, a3, a4, a5, a6, a7⟩ := ih
    obtain ⟨b1, b2, b3, b4, b5, b6, b7⟩ := coreMove_frame h
    exact ⟨fun n => (b1 n).trans (a1 n), b2.trans a2, b3.trans a3, b4.trans a4, b5.trans a5, b6.trans a6, b7.trans a7⟩

theorem coreMove_none {s t : State} (h : CoreMove s t) (c : Nat) (hc : s.claimAt c = none) : t.claimAt c = none := by
  cases h
  case noticed c' b => rw [State.claimAt_modClaim]; split_ifs <;> simp_all
  case conversionGranted => rw [State.claimAt_hold]; split_ifs <;> simp_all
  case waitGranted => rw [State.claimAt_hold]; split_ifs <;> simp_all
  case conversionEnded => rw [State.claimAt_endConversion]; split_ifs <;> simp_all
  case freed => rw [State.claimAt_freeClaim]; split_ifs <;> simp_all
  all_goals first | exact hc | simpa using hc

/-- A free claim record stays free. -/
theorem core_none {s t : State} (h : Core s t) (c : Nat) (hc : s.claimAt c = none) : t.claimAt c = none := by
  induction h with
  | refl => exact hc
  | tail _ h ih => exact coreMove_none h c ih

theorem untouched_refl (r : SessionRec) : r.untouched r := by
  unfold SessionRec.untouched
  refine ⟨rfl, ?_⟩
  rcases hr : r.state with _ | o | l
  · rfl
  · exact ⟨o.claims, .refl _, rfl⟩
  · exact ⟨l.noticePending, rfl⟩

theorem untouched_trans {r r' r'' : SessionRec} (h : r.untouched r') (h' : r'.untouched r'') : r.untouched r'' := by
  obtain ⟨h1, h2⟩ := h
  obtain ⟨h3, h4⟩ := h'
  refine ⟨h3.trans h1, ?_⟩
  rcases hr : r.state with _ | o | l <;> rw [hr] at h2 <;> dsimp only at h2 ⊢
  · rw [h2] at h4; exact h4
  · obtain ⟨c, hs, hc⟩ := h2; rw [hc] at h4; obtain ⟨c', hs', hc'⟩ := h4; exact ⟨c', hs'.trans hs, hc'⟩
  · obtain ⟨c, hc⟩ := h2; rw [hc] at h4; obtain ⟨c', hc'⟩ := h4; exact ⟨c', hc'⟩

theorem coreMove_untouched {s t : State} (h : CoreMove s t) (i : Nat) : (s.session i).untouched (t.session i) := by
  cases h
  case mark n b =>
    unfold State.markLapse; split
    · split
      · rename_i j hd rr tt ww l hl
        rw [State.session_setSession]; split_ifs with hi
        · subst hi; refine ⟨rfl, ?_⟩; rw [hl]; exact ⟨b, rfl⟩
        · exact untouched_refl _
      · exact untouched_refl _
      · exact untouched_refl _
    · exact untouched_refl _
    · exact untouched_refl _
  case unpend j l hl =>
    rw [State.session_setSession]; split_ifs with hi
    · subst hi; refine ⟨rfl, ?_⟩; rw [hl]; exact ⟨false, rfl⟩
    · exact untouched_refl _
  case freed c =>
    rw [State.session_freeClaim]; split_ifs
    · split <;> rename_i hx
      · refine ⟨rfl, ?_⟩; rw [hx]; exact ⟨_, List.filter_sublist, rfl⟩
      · exact untouched_refl _
      · exact untouched_refl _
    · exact untouched_refl _
  all_goals first | exact untouched_refl _ | (simp; exact untouched_refl _)

/-- A session keeps all but its claim list and its pending-notice flag. -/
theorem core_untouched {s t : State} (h : Core s t) (i : Nat) : (s.session i).untouched (t.session i) := by
  induction h with
  | refl => exact untouched_refl _
  | tail _ h ih => exact untouched_trans ih (coreMove_untouched h i)

end Sys2Proof.Machine
end

