-- ==== Sys2Proof/Laws/Moves.lean ====
section
/-! SUPPORT. What a command can do, said once: every command but TICK, DEVICE_RESET and STARTUP_END is a chain of the
moves below (`exec_moves`). An invariant that each move keeps is kept by every one of those commands. -/

namespace Sys2Proof.Machine

/-- One indivisible change that a part of a command makes. `allow n a b` says that channel `n` may go from state `a` to
state `b` (R120); `own i` says that session record `i` may be opened, renewed, lapsed or freed. -/
inductive Move (allow : Nat → ChanState → ChanState → Prop) (own : Nat → Prop) : State → State → Prop where
  /-- What the shared parts do. -/
  | core {s t : State} : CoreMove s t → Move allow own s t
  /-- The next entry of a completed fetch is taken (R127). -/
  | pop {s : State} {ch : Nat} {i : Instr} {rest : List Instr} : (s.chan ch).state = .active →
      (s.chan ch).fetch = .taking (i :: rest) → Move allow own s (s.popRequest ch)
  /-- The armed flag of an ACTIVE channel is set (R135). -/
  | arm {s : State} {ch : Nat} : (s.chan ch).state = .active → Move allow own s (s.setChan ch { s.chan ch with armed := true })
  /-- A fetch is issued (R126). -/
  | fetch {s : State} {n : Nat} : (s.chan n).ready = true → Move allow own s (s.issueFetch n)
  /-- A fetch ends, its entries to be taken (R127) or discarded (R128). -/
  | entries {s : State} {ch : Fin 16} {start count : Nat} (es : List RingEntry) : (s.chan ch).state = .active →
      (s.chan ch).fetch = .reading start count → es.length = count → Move allow own s (s.completeFetch ch count es)
  | discard {s : State} {ch start count : Nat} : (s.chan ch).fetch = .reading start count →
      Move allow own s (s.setChan ch { s.chan ch with fetch := .idle })
  /-- The oldest write leaves (R132, R133), and RPL_PROD passes it (R132). -/
  | written {s : State} {ch : Nat} : (s.chan ch).writes ≠ [] → Move allow own s (s.popWrite ch)
  | produced {s : State} {ch : Nat} : (s.chan ch).state = .active → (s.chan ch).writes ≠ [] →
      Move allow own s ((s.popWrite ch).setChan ch
        { (s.popWrite ch).chan ch with rplProd := ((s.chan ch).rplProd + 1) % (s.chan ch).rplSize })
  /-- An index is stored (R122, R134). -/
  | reqProd {s : State} {ch : Nat} (index : Nat) : (s.chan ch).state = .active ∧ index < (s.chan ch).reqSize ∨
      (s.chan ch).state = .faulted → Move allow own s (s.setChan ch { s.chan ch with reqProd := index })
  | rplCons {s : State} {ch : Nat} (index : Nat) :
      (s.chan ch).state = .active ∧ (s.chan ch).consumerValid index = true ∨ (s.chan ch).state = .faulted →
      Move allow own s (s.setChan ch { s.chan ch with rplCons := index })
  /-- The changes of a channel's state (R120). -/
  | fault {s : State} {ch : Nat} (cause : Cause) : (s.chan ch).state = .active → allow ch .active .faulted →
      Move allow own s (s.setChan ch ((s.chan ch).faulted cause))
  | badSetup {s : State} : (s.chan 0).state = .off ∨ (s.chan 0).state = .faulted →
      allow 0 (s.chan 0).state .faulted →
      Move allow own s (s.setChan 0 { s.chan 0 with state := .faulted, cause := .badSetup, armed := false })
  | close {s : State} {ch : Nat} : ch ≠ 0 → (s.chan ch).state = .active ∨ (s.chan ch).state = .faulted →
      allow ch (s.chan ch).state .closing → Move allow own s (s.setChan ch
        { s.chan ch with state := .closing, owed := 0, notices := [], fetch := (s.chan ch).fetch.atLeave })
  | off {s : State} {ch : Nat} : (s.chan ch).state = .closing → (s.chan ch).dmaBusy = false →
      allow ch .closing .off → Move allow own s (s.setChan ch Channel.reset)
  | setUp {s : State} {ch : Nat} (r : Rings) (a b : Nat) : ch ≠ 0 → r.valid = true → (s.chan ch).state = .off →
      allow ch .off .active → Move allow own s (s.setChan ch ((s.chan ch).setUp r a b))
  | restart {s : State} {ch : Nat} : ch ≠ 0 → (s.chan ch).state = .faulted → (s.chan ch).dmaBusy = false →
      allow ch .faulted .active → Move allow own s (s.setChan ch (s.chan ch).ringStart)
  | startManagement {s : State} : (s.chan 0).state = .off ∨ (s.chan 0).state = .faulted ∧ (s.chan 0).dmaBusy = false →
      s.mgmt.rings.valid = true → allow 0 (s.chan 0).state .active → Move allow own s s.startManagement
  /-- A channel's access and limits, and channel 0's pending teardown replies (R158, R161, R162). -/
  | access {s : State} {ch : Nat} (d : Nat) (l : Level) : (s.chan ch).state = .active ∨ (s.chan ch).state = .faulted →
      Move allow own s (s.setChan ch { s.chan ch with access := (s.chan ch).access.set d l })
  | limits {s : State} {ch a b : Nat} : (s.chan ch).state = .active ∨ (s.chan ch).state = .faulted →
      s.sessionCount ch ≤ a → s.claimCount ch ≤ b →
      Move allow own s (s.setChan ch { s.chan ch with sessionLimit := a, claimLimit := b })
  | teardownReply {s : State} (x : Table (Option ReqTag) none) : Move allow own s { s with teardownReplies := x }
  /-- The management ring registers and the requested tick period (R96, R152). -/
  | registers {s : State} (m : MgmtRegs) : Move allow own s { s with mgmt := m }
  | requestPeriod {s : State} (p : BitVec 32) : 10 ≤ p.toNat → p.toNat ≤ 1000000 →
      Move allow own s { s with requestedPeriod := some p }
  /-- The changes of a session record (R74). -/
  | opening {s : State} {i ch : Nat} (p : BitVec 16) (b : Bool) : own i → (s.session i).state = .free → i < 512 → ch ≠ 0 →
      s.sessionCount ch < (s.chan ch).sessionLimit → p ≠ 0 → (s.chan ch).state = .active →
      Move allow own s (s.openAt i ch p b)
  | renewal {s : State} {i : Nat} : own i → Move allow own s (s.renew i)
  | lapse {s : State} {i : Nat} {o : OpenSession} (reason : LapseReason) : own i → (s.session i).state = .opened o →
      Move allow own s (s.setSession i ⟨(s.session i).tag, .lapsed ⟨o.channel, reason, false⟩⟩)
  | freeing {s : State} {i : Nat} : own i → Move allow own s (s.freeSession i)
  | grantedAtOnce {s : State} {c i ch w : Nat} {m : Mode} {o : OpenSession} {e : Entry} : s.claimAt c = none →
      c < 32768 → (s.session i).state = .opened o → o.channel = ch → s.claimCount ch < (s.chan ch).claimLimit →
      s.way w = .active e → s.admits e m none = true → e.converts = [] → (m = .exclusive → s.nextSerial ≠ none) →
      Move allow own s ((s.allocate c i w (.held m)).hold c w m)
  | queued {s : State} {c i ch w : Nat} {m : Mode} {wait : Wait} {o : OpenSession} {e : Entry} : s.claimAt c = none →
      c < 32768 → (s.session i).state = .opened o → o.channel = ch → s.claimCount ch < (s.chan ch).claimLimit →
      s.way w = .active e → (s.chan ch).state = .active → Move allow own s (s.allocate c i w (.waiting m wait))
  | upgradedAtOnce {s : State} {c w : Nat} {m h : Mode} {b : Claim} : s.claimAt c = some b → b.way = w →
      b.state = .held h → s.admits (s.entry w) m (some c) = true → (m = .exclusive → s.nextSerial ≠ none) →
      Move allow own s (s.hold c w m)
  | downgraded {s : State} {c : Nat} {m h : Mode} {b : Claim} : s.claimAt c = some b → b.state = .held h →
      conversionKind h m = .downgrade → Move allow own s (s.modClaim c fun x => { x with state := .held m })
  | converting {s : State} {c w : Nat} {h m : Mode} {b : Claim} (wait : Wait) : s.claimAt c = some b → b.way = w →
      b.state = .held h → conversionKind h m = .upgrade →
      Move allow own s ((s.modClaim c fun x => { x with state := .converting h m wait }).modEntry w fun e =>
        { e with converts := e.converts ++ [c] })
  | created {s : State} {w : Nat} {k : Key} : s.lookup k = none → w ∈ bucketWays k.bucket → s.way w = .free →
      Move allow own s (s.createAt w k)
  | evicted {s : State} {w : Nat} {k : Key} {rest : List Nat} : s.lookup k = none →
      s.dormantOrder k.bucket = w :: rest → Move allow own s ((s.leaveDormant w .free).createAt w k)
  | discarded {s : State} {w : Nat} {e : Entry} : s.way w = .dormant e → Move allow own s (s.leaveDormant w .free)
  | reactivated {s : State} {w : Nat} {e : Entry} : s.way w = .dormant e →
      Move allow own s (s.leaveDormant w (.active e))

/-- A chain of moves. -/
abbrev Moves (allow : Nat → ChanState → ChanState → Prop) (own : Nat → Prop) : State → State → Prop :=
  Relation.ReflTransGen (Move allow own)

section
variable {allow : Nat → ChanState → ChanState → Prop} {own : Nat → Prop}

theorem Moves.one {s t : State} (h : Move allow own s t) : Moves allow own s t := .single h

theorem Core.moves {s t : State} (h : Core s t) : Moves allow own s t := by
  induction h with
  | refl => exact .refl
  | tail _ h ih => exact ih.tail (.core h)

theorem moves_foldl {α : Type} (f : State → α → State) (hf : ∀ s a, Moves allow own s (f s a)) (l : List α) (s : State) :
    Moves allow own s (l.foldl f s) := by
  induction l generalizing s with
  | nil => exact .refl
  | cons a l ih => exact (hf s a).trans (ih _)

/-- A lapse is the change of the session's record and then core moves (R82). -/
theorem core_lapse {s : State} {i : Nat} {o : OpenSession} (r : LapseReason) (h : (s.session i).state = .opened o) :
    Core (s.setSession i ⟨(s.session i).tag, .lapsed ⟨o.channel, r, false⟩⟩) (s.lapse i r) := by
  unfold State.lapse
  rw [h]
  dsimp only
  exact (core_foldl _ (fun s c => core_withdrawPart ..) _ _).trans (core_raise ..)

theorem moves_lapse {s : State} {i : Nat} (r : LapseReason) (hi : own i) : Moves allow own s (s.lapse i r) := by
  rcases h : (s.session i).state with _ | o | l
  · unfold State.lapse; rw [h]
  · exact (Moves.one (.lapse r hi h)).trans (core_lapse r h).moves
  · unfold State.lapse; rw [h]

/-! ### Faults and teardowns -/

/-- A client channel's entry into FAULTED is the change of its record and then core moves (R136). -/
theorem core_faultClient (s : State) (ch : Nat) (cause : Cause) :
    Core (s.setChan ch ((s.chan ch).faulted cause)) (s.faultClient ch cause) := by
  unfold State.faultClient
  dsimp only
  have h1 : ∀ l : List Nat, Core (s.setChan ch ((s.chan ch).faulted cause))
      ((((s.setChan ch ((s.chan ch).faulted cause)).clearFlags ch).withdrawAll [] l
        State.withdrawWait).raise 0 (.channelFaulted ch cause s.now)) := fun l =>
    ((core_clearFlags _ ch).trans (core_withdrawAll _ _ _ core_withdrawWait)).trans (core_raise ..)
  split
  · exact ((h1 _).trans (core_sendInterrupt ..)).tail (.disarm ch)
  · exact h1 _

theorem moves_faultClient (s : State) (ch : Nat) (cause : Cause) (ha : (s.chan ch).state = .active)
    (hq : allow ch .active .faulted) : Moves allow own s (s.faultClient ch cause) :=
  (Moves.one (.fault cause ha hq)).trans (core_faultClient s ch cause).moves

theorem moves_faultManagement (s : State) (cause : Cause) (ha : (s.chan 0).state = .active)
    (hq : allow 0 .active .faulted) : Moves allow own s (s.faultManagement cause) := by
  unfold State.faultManagement
  dsimp only
  exact (((Moves.one (.fault cause ha hq)).tail (.teardownReply _)).trans (core_sendInterrupt ..).moves).tail (.core (.disarm 0))

theorem moves_fault (s : State) (ch : Nat) (cause : Cause) (ha : (s.chan ch).state = .active)
    (hq : allow ch .active .faulted) : Moves allow own s (s.fault ch cause) := by
  unfold State.fault
  split
  · subst_vars; exact moves_faultManagement s cause ha hq
  · exact moves_faultClient s ch cause ha hq

theorem moves_beginTeardown (s : State) (ch : Nat) (h0 : ch ≠ 0)
    (ha : (s.chan ch).state = .active ∨ (s.chan ch).state = .faulted) (hq : allow ch (s.chan ch).state .closing)
    (hi : ∀ i, own i) : Moves allow own s (s.beginTeardown ch) := by
  unfold State.beginTeardown
  dsimp only
  exact ((Moves.one (.close h0 ha hq)).trans (core_withdrawAll _ _ _ fun _ _ => core_withdraw ..).moves).trans
    (moves_foldl _ (fun s i => .single (.freeing (hi i))) _ _)

theorem moves_endTeardown (s : State) (ch : Nat) (ha : (s.chan ch).state = .closing)
    (hd : (s.chan ch).dmaBusy = false) (hq : allow ch .closing .off) : Moves allow own s (s.endTeardown ch) := by
  unfold State.endTeardown
  dsimp only
  split
  · exact ((Moves.one (.off ha hd hq)).tail (.teardownReply _)).trans (core_reply ..).moves
  · exact .single (.off ha hd hq)

theorem moves_endTeardownIfDrained (s : State) (ch : Nat) (hq : allow ch .closing .off) :
    Moves allow own s (s.endTeardownIfDrained ch) := by
  unfold State.endTeardownIfDrained
  split
  · exact moves_endTeardown s ch (by tauto) (by tauto) hq
  · exact .refl

/-! ### Taking a request -/

theorem moves_takeRequest {s t : State} {ch : Fin 16} {i : Instr} {f : State → State}
    (h : takeRequest ch i f s = .next t)
    (hf : ∀ u : State, (u.chan ch).state = .active → u.sessions = s.sessions → Moves allow own u (f u)) :
    Moves allow own s t := by
  unfold takeRequest at h
  split at h
  · rename_i hn
    cases h
    unfold State.nextRequest at hn
    split_ifs at hn with ha
    split at hn
    · rename_i i' rest hf'
      exact .trans (.single (.pop ha hf')) (hf _ (by simp [State.popRequest, ha]) rfl)
    all_goals cases hn
  · cases h; exact .refl

/-! ### ACQUIRE, CONVERT, RELEASE, CANCEL and CHECK_FENCE -/

theorem lookup_way {s : State} {k : Key} {w : Nat} (h : s.lookup k = some w) :
    (∃ e, s.way w = .active e ∧ e.key = k) ∨ ∃ e, s.way w = .dormant e ∧ e.key = k := by
  have := List.find?_some h
  unfold State.holdsKey at this
  split at this
  · exact .inl ⟨_, ‹_›, by simpa using this⟩
  · exact .inr ⟨_, ‹_›, by simpa using this⟩
  · cases this

theorem moves_place {s t : State} {k : Key} {w : Nat} (h : s.place k = some (w, t)) : Moves allow own s t := by
  unfold State.place at h
  split at h
  · split at h
    · cases h; exact .single (.reactivated ‹_›)
    · cases h; exact .refl
    · cases h
  · split at h
    · rename_i hw
      cases h
      exact .single (.created ‹_› (List.mem_of_find?_eq_some hw) (by simpa using List.find?_some hw))
    · split at h
      · cases h; exact .single (.evicted ‹_› ‹_›)
      · cases h

theorem active_place {s t : State} {k : Key} {w : Nat} (h : s.place k = some (w, t)) :
    ∃ e, t.way w = .active e ∧ e.key = k := by
  unfold State.place at h
  split at h
  · rename_i hl
    rcases lookup_way hl with ⟨e, he, hk⟩ | ⟨e, he, hk⟩ <;> rw [he] at h <;> cases h
    · exact ⟨e, he, hk⟩
    · exact ⟨e, by simp [State.leaveDormant], hk⟩
  · split at h
    · cases h; exact ⟨_, by simp [State.createAt]; rfl, rfl⟩
    · split at h
      · cases h; exact ⟨_, by simp [State.createAt]; rfl, rfl⟩
      · cases h

theorem searchFreeClaim_lt (s : State) (fuel k : Nat) : s.searchFreeClaim fuel k < Config.claimRecords := by
  induction fuel generalizing k with
  | zero => exact Nat.mod_lt _ (by decide)
  | succ n ih =>
    unfold State.searchFreeClaim
    split
    · exact Nat.mod_lt _ (by decide)
    · exact ih _

theorem searchFreeClaim_free (s : State) (fuel k : Nat) (h : s.claimAt (s.searchFreeClaim fuel k) ≠ none) :
    ∀ j < fuel, s.claimAt ((k + j) % Config.claimRecords) ≠ none := by
  induction fuel generalizing k with
  | zero => intro j hj; omega
  | succ n ih =>
    unfold State.searchFreeClaim at h
    intro j hj
    split at h
    · rename_i hn
      rw [Option.isNone_iff_eq_none] at hn
      exact absurd hn h
    · rename_i hn
      cases j with
      | zero => simpa [Option.isNone_iff_eq_none] using hn
      | succ j =>
        have := ih (k + 1) h j (by omega)
        rwa [show k + (j + 1) = k + 1 + j by omega]

/-- The record that the pool gives is free, unless no record is (R26, R27). -/
theorem pickClaim_free (s : State) (h : s.freeClaims ≠ 0) :
    s.claimAt s.pickClaim = none ∧ s.pickClaim < Config.claimRecords := by
  refine ⟨?_, searchFreeClaim_lt ..⟩
  by_contra hne
  have hall := searchFreeClaim_free s _ _ hne
  apply h
  unfold State.freeClaims Table.count
  have hsub : List.range Config.claimRecords ⊆ (s.claims.cells.filter fun c => c.2.claim.isSome).map (·.1) := by
    intro x hx
    have hx' : x < Config.claimRecords := List.mem_range.mp hx
    let k := Config.claimPick s.choices % Config.claimRecords
    have hk : k < Config.claimRecords := Nat.mod_lt _ (by decide)
    have hj := hall ((x + (Config.claimRecords - k)) % Config.claimRecords) (Nat.mod_lt _ (by decide))
    have hjx : (Config.claimPick s.choices + (x + (Config.claimRecords - k)) % Config.claimRecords)
        % Config.claimRecords = x := by
      rw [Nat.add_mod, Nat.mod_mod, ← Nat.add_mod]
      have e : Config.claimPick s.choices + (x + (Config.claimRecords - k)) =
          x + Config.claimRecords * (Config.claimPick s.choices / Config.claimRecords + 1) := by
        have := Nat.div_add_mod (Config.claimPick s.choices) Config.claimRecords
        have hk2 : k = Config.claimPick s.choices % Config.claimRecords := rfl
        rw [Nat.mul_add, Nat.mul_one]
        omega
      rw [e, Nat.add_mul_mod_self_left, Nat.mod_eq_of_lt hx']
    rw [hjx] at hj
    have hne2 : s.claims.get x ≠ ClaimRec.reset := by
      intro hr
      apply hj
      unfold State.claimAt State.claim
      rw [hr]; rfl
    refine List.mem_map.mpr ⟨(x, s.claims.get x), List.mem_filter.mpr ⟨mem_of_cellsGet_ne hne2, ?_⟩, rfl⟩
    exact Option.isSome_iff_ne_none.mpr hj
  have := (List.subperm_of_subset List.nodup_range hsub).length_le
  rw [List.length_range, List.length_map] at this
  exact Nat.sub_eq_zero_of_le this

theorem moves_acquireAtEntry {s : State} {idx ch i w : Nat} {tag : ReqTag} {m : Mode} {limit : BitVec 16}
    {o : OpenSession} {e : Entry} (hf : s.claimAt idx = none) (hi : idx < 32768)
    (ho : (s.session i).state = .opened o) (hc : o.channel = ch) (hl : s.claimCount ch < (s.chan ch).claimLimit)
    (hw : s.way w = .active e) (ha : (s.chan ch).state = .active) (hx : m = .exclusive → s.nextSerial ≠ none) :
    Moves allow own s (s.acquireAtEntry idx ch tag i w m limit) := by
  unfold State.acquireAtEntry
  have he : s.entry w = e := by unfold State.entry; rw [hw]; rfl
  split
  · rename_i hg
    unfold State.acquireGrantable at hg
    rw [he] at hg
    simp only [Bool.and_eq_true, decide_eq_true_eq] at hg
    exact ((Moves.one (.grantedAtOnce hf hi ho hc hl hw hg.2 hg.1.1 hx)).trans (core_handClaim ..).moves).trans
      (core_finish ..).moves
  · split
    · exact (core_reply ..).moves.trans (core_finish ..).moves
    · exact (Moves.one (.queued hf hi ho hc hl hw ha)).trans (core_finish ..).moves

theorem moves_acquireChecked {s : State} {idx ch i : Nat} {tag : ReqTag} {k : Key} {m : Mode} {limit : BitVec 16}
    {o : OpenSession} (hf : s.freeClaims ≠ 0 → s.claimAt idx = none) (hi : idx < 32768)
    (ho : (s.session i).state = .opened o) (hc : o.channel = ch) (ha : (s.chan ch).state = .active) :
    Moves allow own s (s.acquireChecked idx ch tag i k m limit) := by
  unfold State.acquireChecked
  split_ifs with h1 h2 h3 h4 h5
  all_goals first | exact (core_reply ..).moves | skip
  split
  · rename_i w t hp
    have hfr := State.place_frame s hp
    obtain ⟨e, he, -⟩ := active_place hp
    refine (moves_place hp).trans (moves_acquireAtEntry (o := o) ?_ hi ?_ hc ?_ he ?_ ?_)
    · rw [hfr]; exact hf h4
    · rw [hfr]; exact ho
    · rw [hfr]; exact Nat.lt_of_not_le h3
    · rw [hfr]; exact ha
    · rw [hfr]; intro hm hn; exact h5 ⟨hm, hn⟩
  · exact (core_reply ..).moves

theorem checkSession_opened {s : State} {ch : Option Nat} {h : SessionHandle} {i : Nat}
    (hc : s.checkSession ch h = .opened i) :
    i = sessionIndex h ∧ ∃ o, (s.session i).state = .opened o ∧ (ch = none ∨ ch = some o.channel) := by
  unfold State.checkSession at hc
  split_ifs at hc with h1
  split at hc
  · cases hc
  · rename_i o ho
    split_ifs at hc with h2
    cases hc
    exact ⟨rfl, o, ho, h2⟩
  · split_ifs at hc

theorem checkSession_channel {s : State} {ch : Nat} {h : SessionHandle} {i : Nat}
    (hc : s.checkSession (some ch) h = .opened i) : (s.session i).channel = some ch := by
  obtain ⟨-, o, ho, hch⟩ := checkSession_opened hc
  rw [SessionRec.channel, ho]
  simpa [eq_comm] using hch

theorem checkSession_lapsed {s : State} {ch : Option Nat} {h : SessionHandle} {i : Nat}
    (hc : s.checkSession ch h = .lapsed i) :
    i = sessionIndex h ∧ ∃ l, (s.session i).state = .lapsed l ∧ (ch = none ∨ ch = some l.channel) := by
  unfold State.checkSession at hc
  split_ifs at hc with h1
  split at hc
  · cases hc
  · split_ifs at hc
  · rename_i l hl
    split_ifs at hc with h2
    cases hc
    exact ⟨rfl, l, hl, h2⟩

theorem checkClaim_some {s : State} {ch : Nat} {h : ClaimHandle} {c : Nat} (hc : s.checkClaim ch h = some c) :
    ∃ b, s.claimAt c = some b ∧ (s.session b.session).channel = some ch := by
  unfold State.checkClaim at hc
  split at hc
  · rename_i b hb
    split_ifs at hc with h1
    cases hc
    exact ⟨b, hb, h1.2.2⟩
  · cases hc

theorem session_renew {s : State} {i : Nat} {o : OpenSession} (h : (s.session i).state = .opened o) :
    (s.renew i).session i = ⟨(s.session i).tag, .opened { o with deadline := keepaliveDeadline s.now o.period }⟩ := by
  unfold State.renew
  rw [State.session_modOpen, if_pos rfl, h]

theorem moves_acquire {s : State} {idx ch : Nat} {tag : ReqTag} {session : SessionHandle} {domain mode : BitVec 8}
    {limit : BitVec 16} {name : Name} (hf : s.freeClaims ≠ 0 → s.claimAt idx = none) (hi : idx < 32768)
    (ha : (s.chan ch).state = .active) (hs : ∀ i, (s.session i).channel = some ch → own i) :
    Moves allow own s (s.acquire idx ch tag session domain mode limit name) := by
  unfold State.acquire
  split
  · exact (core_reply ..).moves
  · split
    · split
      · exact (core_reply ..).moves
      · exact (core_reply ..).moves
      · rename_i i hc
        have hc' := hc
        obtain ⟨rfl, o, ho, hch⟩ := checkSession_opened hc
        have hr := session_renew ho
        have hfr := State.renew_frame s (sessionIndex session)
        refine (Moves.one (.renewal (hs _ (checkSession_channel hc')))).trans
          (moves_acquireChecked (o := { o with deadline := keepaliveDeadline s.now o.period }) ?_ hi ?_ ?_ ?_)
        · rw [hfr]; exact hf
        · rw [hr]
        · simpa [eq_comm] using hch
        · rw [hfr]; exact ha
    · exact (core_reply ..).moves
    · exact (core_reply ..).moves

theorem claimAt_freeClaim (s : State) (c k : Nat) :
    (s.freeClaim c).claimAt k = if k = c then none else s.claimAt k := by
  unfold State.freeClaim
  split
  · rw [State.claimAt_setClaim, State.modOpen_frame, State.modEntry_frame, State.dropContention_frame]
    rfl
  · rename_i h
    split
    · subst_vars; exact h
    · rfl

theorem claimAt_endConversion {s : State} {c k : Nat} (h : k ≠ c) : (s.endConversion c).claimAt k = s.claimAt k := by
  unfold State.endConversion
  split
  · split
    · rw [State.claimAt_modClaim, if_neg h, State.modEntry_frame]; rfl
    · rfl
    · rfl
  · rfl

/-- A HELD claim is not reached by the end of any wait. -/
theorem claimAt_endWait_held {s : State} {c k : Nat} {st : Status} {b : Claim} {h : Mode} (hb : s.claimAt k = some b)
    (hh : b.state = .held h) : (s.endWait c st).claimAt k = some b := by
  unfold State.endWait
  by_cases hk : k = c
  · subst hk
    rw [hb]; dsimp only; rw [hh]; exact hb
  · split
    · split
      · rw [claimAt_freeClaim, if_neg hk, State.answer_frame]; exact hb
      · rw [claimAt_endConversion hk, State.answer_frame]; exact hb
      · exact hb
    · exact hb

theorem failConversions_held {s : State} {w k : Nat} {b : Claim} {h : Mode} (hb : s.claimAt k = some b)
    (hh : b.state = .held h) : (s.failConversions w).claimAt k = some b := by
  unfold State.failConversions
  generalize (s.entry w).converts.filter _ = l
  induction l generalizing s with
  | nil => exact hb
  | cons c l ih => exact ih (claimAt_endWait_held hb hh)

theorem failConversions_nextSerial (s : State) (w : Nat) : (s.failConversions w).nextSerial = s.nextSerial := by
  unfold State.failConversions
  generalize (s.entry w).converts.filter _ = l
  induction l generalizing s with
  | nil => rfl
  | cons c l ih =>
    rw [List.foldl_cons, ih, State.endWait_frame]

theorem moves_upgrade {s : State} {ch : Nat} {tag : ReqTag} {c w : Nat} {held m : Mode} {limit : BitVec 16} {b : Claim}
    (hb : s.claimAt c = some b) (hw : b.way = w) (hh : b.state = .held held) (hk : conversionKind held m = .upgrade)
    (hx : m = .exclusive → s.nextSerial ≠ none) : Moves allow own s (s.upgrade ch tag c w held m limit) := by
  unfold State.upgrade
  dsimp only
  generalize hu : (if m = .exclusive then s.failConversions w else s) = u
  have h1 : Moves allow own s u := by
    rw [← hu]; split
    · exact (core_failConversions ..).moves
    · exact .refl
  have h2 : u.claimAt c = some b := by
    rw [← hu]; split
    · exact failConversions_held hb hh
    · exact hb
  have h3 : u.nextSerial = s.nextSerial := by
    rw [← hu]; split
    · exact failConversions_nextSerial ..
    · rfl
  refine h1.trans ?_
  split
  · rename_i hg
    unfold State.upgradeGrantable at hg
    simp only [Bool.and_eq_true, decide_eq_true_eq] at hg
    obtain ⟨b', hb', hs', hw', -⟩ := claimAt_clearNoticed (c := c) h2
    refine (((core_clearNoticed u c).moves.trans (.single (.upgradedAtOnce hb' (hw'.trans hw) (hs'.trans hh) ?_ ?_))).trans
      (core_handClaim ..).moves).trans (core_finish ..).moves
    · rw [admits_clearNoticed, entry_clearNoticed]; exact hg.2
    · rw [nextSerial_clearNoticed, h3]; exact hx
  · split
    · exact (core_hand ..).moves.trans (core_finish ..).moves
    · exact (Moves.one (.converting _ h2 hw hh hk)).trans (core_finish ..).moves

theorem moves_downgrade {s : State} {ch : Nat} {tag : ReqTag} {c w : Nat} {held m : Mode} {p i : Bool} {v : ValueWord}
    {b : Claim} (hb : s.claimAt c = some b) (hh : b.state = .held held) (hk : conversionKind held m = .downgrade) :
    Moves allow own s (s.downgrade ch tag c w held m p i v) := by
  unfold State.downgrade
  dsimp only
  have h1 := (Moves.one (allow := allow) (own := own) (.downgraded hb hh hk)).trans (core_clearNoticed _ c).moves
  split
  · exact ((h1.tail (.core (.valued w (fun x => x.written p i v) (written_absent p i v)))).trans (core_hand ..).moves).trans
      (core_finish ..).moves
  · exact (h1.trans (core_hand ..).moves).trans (core_finish ..).moves

theorem claim_own {s : State} {ch : Nat} {h : ClaimHandle} {c : Nat} {b : Claim}
    (hs : ∀ i, (s.session i).channel = some ch → own i) (hk : s.checkClaim ch h = some c) (hb : s.claimAt c = some b) :
    own b.session := by
  obtain ⟨b', hb', hch⟩ := checkClaim_some hk
  rw [hb] at hb'
  cases hb'
  exact hs _ hch

theorem moves_convert {s : State} {ch : Nat} {tag : ReqTag} {claim : ClaimHandle} {mode : BitVec 8} {p i : Bool}
    {limit : BitVec 16} {v : ValueWord}
    (hs : ∀ i, (s.session i).channel = some ch → own i) : Moves allow own s (s.convert ch tag claim mode p i limit v) := by
  unfold State.convert
  split
  · exact (core_reply ..).moves
  · split
    · split
      · exact (core_reply ..).moves
      · split
        · rename_i c hk
          split
          · rename_i b hb
            refine (Moves.one (.renewal (claim_own hs hk hb))).trans ?_
            have hfr := State.renew_frame s b.session
            have hb' : (s.renew b.session).claimAt c = some b := by rw [hfr]; exact hb
            have hn : (s.renew b.session).nextSerial = s.nextSerial := by rw [hfr]
            generalize s.renew b.session = u at hb' hn
            unfold State.convertChecked
            split
            · exact (core_reply ..).moves
            · split
              · rename_i held hst
                unfold State.convertHeld
                split
                · exact (core_hand ..).moves
                · split
                  · exact (core_hand ..).moves
                  · exact moves_downgrade hb' hst ‹_›
                · split_ifs with g1 g2 g3
                  · exact (core_hand ..).moves
                  · exact (core_hand ..).moves
                  · exact (core_hand ..).moves
                  · exact moves_upgrade hb' rfl hst ‹_› fun hm hn' => g2 ⟨hm, hn'⟩
              · exact (core_hand ..).moves
              · exact (core_hand ..).moves
          · exact (core_reply ..).moves
        · exact (core_reply ..).moves
    · exact (core_reply ..).moves

theorem core_releaseChecked {s : State} {ch : Nat} {tag : ReqTag} {c : Nat} {b : Claim} {p i : Bool} {v : ValueWord} :
    Core s (s.releaseChecked ch tag c b p i v) := by
  unfold State.releaseChecked
  split
  · exact core_reply ..
  · split
    · exact core_reply ..
    · dsimp only
      refine .trans ?_ ((core_reply ..).trans (core_finish ..))
      split
      · exact (Core.one (.freed _)).tail (.valued b.way (fun x => x.written p i v) (written_absent p i v))
      · exact .single (.freed _)
  · split
    · exact core_reply ..
    · exact ((((core_answer ..).tail (.conversionEnded _)).tail (.freed _)).trans (core_reply ..)).trans
        (core_finish ..)

theorem moves_release {s : State} {ch : Nat} {tag : ReqTag} {claim : ClaimHandle} {p i : Bool} {v : ValueWord}
    (hs : ∀ i, (s.session i).channel = some ch → own i) :
    Moves allow own s (s.release ch tag claim p i v) := by
  unfold State.release
  split
  · exact (core_reply ..).moves
  · split
    · exact (core_reply ..).moves
    · split
      · rename_i c hk
        split
        · rename_i b hb
          exact (Moves.one (.renewal (claim_own hs hk hb))).trans core_releaseChecked.moves
        · exact (core_reply ..).moves
      · exact (core_reply ..).moves

theorem core_cancelChecked {s : State} {ch : Nat} {tag : ReqTag} {i : Nat} {k : Key} :
    Core s (s.cancelChecked ch tag i k) := by
  unfold State.cancelChecked
  split
  · split
    · split
      · exact (core_hand ..).trans (core_finish ..)
      · exact ((core_endWait ..).trans (core_reply ..)).trans (core_finish ..)
    · exact (core_reply ..).trans (core_finish ..)
  · exact core_reply ..

theorem moves_cancel {s : State} {ch : Nat} {tag : ReqTag} {session : SessionHandle} {domain : BitVec 8}
    {name : Name} (hs : ∀ i, (s.session i).channel = some ch → own i) :
    Moves allow own s (s.cancel ch tag session domain name) := by
  unfold State.cancel
  split
  · exact (core_reply ..).moves
  · split
    · split
      · exact (core_reply ..).moves
      · exact (core_reply ..).moves
      · rename_i i hc
        exact (Moves.one (.renewal (hs _ (checkSession_channel hc)))).trans core_cancelChecked.moves
    · exact (core_reply ..).moves

theorem core_checkFenceChecked {s : State} {ch : Nat} {tag : ReqTag} {k : Key} {serial : Serial} :
    Core s (s.checkFenceChecked ch tag k serial) := by
  unfold State.checkFenceChecked
  split
  · exact core_reply ..
  · exact core_hand ..

theorem moves_checkFence {s : State} {ch : Nat} {tag : ReqTag} {session : SessionHandle} {domain : BitVec 8}
    {name : Name} {serial : Serial} (hs : ∀ i, (s.session i).channel = some ch → own i) :
    Moves allow own s (s.checkFence ch tag session domain name serial) := by
  unfold State.checkFence
  split
  · exact (core_reply ..).moves
  · split
    · split
      · exact core_checkFenceChecked.moves
      · split
        · exact (core_reply ..).moves
        · exact (core_reply ..).moves
        · rename_i i hc
          exact (Moves.one (.renewal (hs _ (checkSession_channel hc)))).trans core_checkFenceChecked.moves
    · exact (core_reply ..).moves

/-! ### Sessions -/

theorem searchFreeSession_some {s : State} {fuel k i : Nat} (h : s.searchFreeSession fuel k = some i) :
    i < k + fuel ∧ (s.session i).state = .free := by
  induction fuel generalizing k with
  | zero => cases h
  | succ n ih =>
    unfold State.searchFreeSession at h
    split_ifs at h with hn
    · cases h
      refine ⟨by omega, ?_⟩
      unfold SessionRec.channel at hn
      split at hn
      · assumption
      · cases hn
      · cases hn
    · have := ih h
      exact ⟨by omega, this.2⟩

theorem moves_openSession {s : State} {ch : Nat} {tag : ReqTag} {p : BitVec 16} {b : Bool}
    (ha : (s.chan ch).state = .active) (hs : ∀ i, (s.session i).channel = none → own i) : Moves allow own s (s.openSession ch tag p b) := by
  unfold State.openSession
  split_ifs with h1 h2 h3
  · exact (core_reply ..).moves
  · exact (core_reply ..).moves
  · exact (core_reply ..).moves
  · split
    · rename_i i hi
      obtain ⟨hlt, hfree⟩ := searchFreeSession_some hi
      have hi' : own i := hs i (by rw [SessionRec.channel, hfree])
      have hlt' : i < 512 := by simpa [Config.sessionRecords] using hlt
      exact (Moves.one (.opening p b hi' hfree hlt' h1 (Nat.lt_of_not_le h3) h2 ha)).trans (core_hand ..).moves
    · exact (core_reply ..).moves

/-- What the withdrawals of a close do before the record is freed (R86). -/
theorem core_closing (s : State) (o : OpenSession) :
    Core s (o.claims.foldl (fun s c => s.withdrawPart c (some .withdrawn) false) s) :=
  core_foldl _ (fun s c => core_withdrawPart ..) _ _

theorem moves_close {s : State} {i : Nat} (hi : own i) : Moves allow own s (s.close i) := by
  unfold State.close
  split
  · exact (core_closing s _).moves.tail (.freeing hi)
  · exact (Moves.one (.core (.drop ..))).tail (.freeing hi)
  · exact .refl

theorem moves_closeSession {s : State} {ch : Nat} {tag : ReqTag} {session : SessionHandle}
    (hs : ∀ i, (s.session i).channel = some ch → own i) : Moves allow own s (s.closeSession ch tag session) := by
  unfold State.closeSession
  split
  · exact (core_reply ..).moves
  · split
    · exact (core_reply ..).moves
    · rename_i i hc
      obtain ⟨-, l, hl, hch⟩ := checkSession_lapsed hc
      have hi : own i := hs i (by rw [SessionRec.channel, hl]; simpa [eq_comm] using hch)
      exact (moves_close hi).trans (core_reply ..).moves
    · rename_i i hc
      exact (moves_close (hs i (checkSession_channel hc))).trans (core_reply ..).moves

theorem moves_keepalive {s : State} {ch : Nat} {tag : ReqTag} {session : SessionHandle}
    (hs : ∀ i, (s.session i).channel = some ch → own i) : Moves allow own s (s.keepalive ch tag session) := by
  unfold State.keepalive
  split
  · exact (core_reply ..).moves
  · split
    · exact (core_reply ..).moves
    · exact (core_reply ..).moves
    · rename_i i hc
      exact (Moves.one (.renewal (hs _ (checkSession_channel hc)))).trans (core_hand ..).moves

/-! ### Management requests -/

theorem targetOf_some {target : BitVec 8} {t : Nat} (h : targetOf target = some t) :
    t = target.toNat ∧ t ≠ 0 ∧ t < 16 := by
  unfold targetOf at h
  split_ifs at h with hc
  cases h
  simp only [not_or] at hc
  refine ⟨rfl, fun h0 => hc.1 (BitVec.eq_of_toNat_eq h0), ?_⟩
  have := Nat.le_of_not_lt hc.2
  exact Nat.lt_succ_of_le this

theorem setupRings_valid {v : BitVec 8} {a b : BitVec 16} {x y : HostAddr} {m n : BitVec 16} {r : Rings}
    (h : setupRings v a b x y m n = some r) : r.valid = true := by
  unfold setupRings at h
  dsimp only at h
  split_ifs at h with hc
  cases h
  exact hc.1

theorem moves_setupChannel {s : State} {ch : Nat} {tag : ReqTag} {target v : BitVec 8} {a b : BitVec 16}
    {x y : HostAddr} {m n : BitVec 16} (hq : allow target.toNat .off .active) :
    Moves allow own s (s.setupChannel ch tag target v a b x y m n) := by
  unfold State.setupChannel
  split
  · exact (core_reply ..).moves
  · split
    · rename_i t r ht hr
      obtain ⟨rfl, h0, -⟩ := targetOf_some ht
      split
      · exact (core_reply ..).moves
      · exact (core_reply ..).moves
      · exact (core_reply ..).moves
      · exact (Moves.one (.setUp r _ _ h0 (setupRings_valid hr) ‹_› hq)).trans (core_reply ..).moves
    · exact (core_reply ..).moves
    · exact (core_reply ..).moves

theorem moves_teardown {s : State} {t : Nat} {tag : ReqTag} (h0 : t ≠ 0)
    (ha : (s.chan t).state = .active ∨ (s.chan t).state = .faulted) (hq : allow t (s.chan t).state .closing)
    (hq' : allow t .closing .off) (hi : ∀ i, own i) : Moves allow own s (s.teardown t tag) := by
  unfold State.teardown
  dsimp only
  have hs : ((s.dropNotices 0 (Notice.faultOf t)).chan t) = s.chan t := by
    rw [State.chan_dropNotices, if_neg h0]
  refine .trans (.single (.core (.drop 0 (Notice.faultOf t)))) (.trans (moves_beginTeardown _ t h0 ?_ ?_ hi)
    (.trans (.single (.teardownReply _)) (moves_endTeardownIfDrained _ t hq')))
  · rw [hs]; exact ha
  · rw [hs]; exact hq

theorem moves_teardownChannel {s : State} {ch : Nat} {tag : ReqTag} {target : BitVec 8}
    (h1 : allow target.toNat .active .closing) (h2 : allow target.toNat .faulted .closing)
    (h3 : allow target.toNat .closing .off) (hi : ch = 0 → ∀ i, own i) :
    Moves allow own s (s.teardownChannel ch tag target) := by
  unfold State.teardownChannel
  split
  · exact (core_reply ..).moves
  · rename_i hch
    split
    · rename_i t ht
      obtain ⟨rfl, h0, -⟩ := targetOf_some ht
      split
      · exact (core_reply ..).moves
      · exact (core_reply ..).moves
      · rename_i hs; exact moves_teardown h0 (.inl hs) (hs ▸ h1) h3 (hi (by simpa using hch))
      · rename_i hs; exact moves_teardown h0 (.inr hs) (hs ▸ h2) h3 (hi (by simpa using hch))
    · exact (core_reply ..).moves

theorem moves_restartChannel {s : State} {ch : Nat} {tag : ReqTag} {target : BitVec 8}
    (hq : allow target.toNat .faulted .active) : Moves allow own s (s.restartChannel ch tag target) := by
  unfold State.restartChannel
  split
  · exact (core_reply ..).moves
  · split
    · rename_i t ht
      obtain ⟨rfl, h0, -⟩ := targetOf_some ht
      split
      · exact (core_reply ..).moves
      · exact (core_reply ..).moves
      · exact (core_reply ..).moves
      · rename_i hs
        split
        · exact (core_reply ..).moves
        · rename_i hd
          refine .trans ?_ (core_reply ..).moves
          unfold State.restart
          dsimp only
          exact ((Moves.one (.restart h0 hs (by simpa using hd) hq)).tail (.core (.drop ..))).trans
            (core_foldl _ core_retell _ _).moves
    · exact (core_reply ..).moves

theorem moves_setAccess {s : State} {ch : Nat} {tag : ReqTag} {target domain level : BitVec 8} :
    Moves allow own s (s.setAccess ch tag target domain level) := by
  have h : ∀ t d l, (s.chan t).state = .active ∨ (s.chan t).state = .faulted →
      Moves allow own s (s.setLevel ch t tag d l) := fun t d l ha =>
    (Moves.one (.access d l ha)).trans (core_hand ..).moves
  unfold State.setAccess
  split
  · exact (core_reply ..).moves
  · split
    · split
      · exact (core_reply ..).moves
      · split
        · exact (core_reply ..).moves
        · exact (core_reply ..).moves
        · exact h _ _ _ (.inl ‹_›)
        · exact h _ _ _ (.inr ‹_›)
    · exact (core_reply ..).moves
    · exact (core_reply ..).moves

theorem moves_setLimits {s : State} {ch : Nat} {tag : ReqTag} {target : BitVec 8} {a b : BitVec 16} :
    Moves allow own s (s.setLimits ch tag target a b) := by
  have h : ∀ t x y, (s.chan t).state = .active ∨ (s.chan t).state = .faulted →
      Moves allow own s (s.limit ch t tag x y) := by
    intro t x y ha
    unfold State.limit
    split_ifs with hu
    · exact (core_reply ..).moves
    · exact (Moves.one (.limits ha (by omega) (by omega))).trans (core_reply ..).moves
  unfold State.setLimits
  split
  · exact (core_reply ..).moves
  · split
    · split
      · exact (core_reply ..).moves
      · split
        · exact (core_reply ..).moves
        · exact (core_reply ..).moves
        · exact h _ _ _ (.inl ‹_›)
        · exact h _ _ _ (.inr ‹_›)
    · exact (core_reply ..).moves

theorem moves_setTick {s : State} {ch : Nat} {tag : ReqTag} {p : BitVec 32} : Moves allow own s (s.setTick ch tag p) := by
  unfold State.setTick
  split_ifs with h1 h2
  · exact (core_reply ..).moves
  · exact (core_reply ..).moves
  · have h3 : 10 ≤ p.toNat := Nat.le_of_not_lt fun h => h2 (.inl h)
    have h4 : p.toNat ≤ 1000000 := Nat.le_of_not_lt fun h => h2 (.inr h)
    exact (Moves.one (.requestPeriod p h3 h4)).trans (core_reply ..).moves

theorem moves_evictSession {s : State} {ch : Nat} {tag : ReqTag} {session : SessionHandle} (hi : ch = 0 → ∀ i, own i) :
    Moves allow own s (s.evictSession ch tag session) := by
  unfold State.evictSession
  split
  · exact (core_reply ..).moves
  · rename_i hch
    split
    · exact (core_reply ..).moves
    · exact (core_reply ..).moves
    · exact (moves_lapse _ (hi (by simpa using hch) _)).trans (core_reply ..).moves

theorem moves_discardResource {s : State} {ch : Nat} {tag : ReqTag} {domain : BitVec 8} {name : Name} :
    Moves allow own s (s.discardResource ch tag domain name) := by
  unfold State.discardResource
  split
  · exact (core_reply ..).moves
  · split
    · split
      · split
        · exact (Moves.one (.discarded ‹_›)).trans (core_reply ..).moves
        · exact (core_reply ..).moves
        · exact (core_reply ..).moves
      · exact (core_reply ..).moves
    · exact (core_reply ..).moves

theorem moves_inspectResource {s : State} {ch : Nat} {tag : ReqTag} {domain : BitVec 8} {name : Name} :
    Moves allow own s (s.inspectResource ch tag domain name) := by
  unfold State.inspectResource
  split
  · exact (core_reply ..).moves
  · split
    · exact (core_hand ..).moves
    · exact (core_reply ..).moves

theorem moves_inspectSession {s : State} {ch : Nat} {tag : ReqTag} {session : SessionHandle} :
    Moves allow own s (s.inspectSession ch tag session) := by
  unfold State.inspectSession
  split
  · exact (core_reply ..).moves
  · split
    · exact (core_reply ..).moves
    · exact (core_hand ..).moves
    · exact (core_hand ..).moves

theorem moves_inspectDevice {s : State} {ch : Nat} {tag : ReqTag} : Moves allow own s (s.inspectDevice ch tag) := by
  unfold State.inspectDevice
  split
  · exact (core_reply ..).moves
  · exact (core_hand ..).moves

/-! ### Registers -/

theorem moves_writeReqProd {s : State} {ch index : Nat} (hq : allow ch .active .faulted) :
    Moves allow own s (s.writeReqProd ch index) := by
  unfold State.writeReqProd
  split
  · rename_i ha
    split
    · exact .single (.reqProd index (.inl ⟨ha, ‹_›⟩))
    · exact moves_fault _ _ _ ha hq
  · exact .single (.reqProd index (.inr ‹_›))
  · exact .refl
  · exact .refl

theorem moves_noticeTurns {s : State} {ch : Nat} (fuel : Nat) (ha : (s.chan ch).state = .active) :
    Moves allow own s (repeatTurn (·.noticeTurn ch) fuel s) ∧
      ((repeatTurn (·.noticeTurn ch) fuel s).chan ch).state = .active := by
  induction fuel generalizing s with
  | zero => exact ⟨.refl, ha⟩
  | succ n ih =>
    unfold repeatTurn
    split
    · rename_i t ht
      have ht' : (t.chan ch).state = .active := by
        unfold State.noticeTurn at ht
        split at ht
        · split at ht
          · cases ht
            rw [State.markLapse_frame]
            show ((s.setChan ch _).chan ch).state = _
            rw [State.chan_setChan, if_pos rfl]
            exact ha
          · cases ht
        · cases ht
      exact ⟨(core_noticeTurn ht ha).moves.trans (ih ht').1, (ih ht').2⟩
    · exact ⟨.refl, ha⟩

theorem moves_consume {s : State} {ch index : Nat} {arm : Bool} (ha : (s.chan ch).state = .active)
    (hv : (s.chan ch).consumerValid index = true) : Moves allow own s (s.consume ch index arm) := by
  unfold State.consume
  dsimp only
  have h1 := Moves.one (allow := allow) (own := own) (.rplCons (s := s) (ch := ch) index (.inl ⟨ha, hv⟩))
  have ha1 : ((s.setChan ch { s.chan ch with rplCons := index }).chan ch).state = .active := by simp [ha]
  obtain ⟨h2, ha2⟩ := moves_noticeTurns (allow := allow) (own := own)
    (((s.setChan ch { s.chan ch with rplCons := index }).chan ch).notices.length) ha1
  split
  · refine (h1.trans h2).trans ?_
    unfold State.arm
    split
    · exact (core_sendInterrupt ..).moves.tail (.core (.disarm ch))
    · exact .single (.arm ha2)
  · exact h1.trans h2

theorem moves_writeRplCons {s : State} {ch index : Nat} {arm : Bool} (hq : allow ch .active .faulted) :
    Moves allow own s (s.writeRplCons ch index arm) := by
  unfold State.writeRplCons
  split
  · rename_i ha
    split
    · exact moves_consume ha ‹_›
    · exact moves_fault _ _ _ ha hq
  · exact .single (.rplCons index (.inr ‹_›))
  · exact .refl
  · exact .refl

theorem moves_badSetup {s : State} (ha : (s.chan 0).state = .off ∨ (s.chan 0).state = .faulted)
    (hq : allow 0 (s.chan 0).state .faulted) : Moves allow own s s.badSetup := by
  unfold State.badSetup
  refine .trans (.single (.badSetup ha hq)) ?_
  unfold State.setupInterrupt
  split
  · exact .single (.core (.interrupt _))
  · exact .refl

theorem moves_writeMgmtControl {s : State} {value : BitVec 32} (h1 : allow 0 .off .active) (h2 : allow 0 .off .faulted)
    (h3 : allow 0 .faulted .active) (h4 : allow 0 .faulted .faulted) : Moves allow own s (s.writeMgmtControl value) := by
  unfold State.writeMgmtControl
  split
  · rename_i ha
    split
    · unfold State.enable
      split
      · exact .single (.startManagement (.inl ha) ‹_› (ha ▸ h1))
      · exact moves_badSetup (.inl ha) (ha ▸ h2)
    · exact .refl
  · rename_i ha
    split
    · unfold State.restartManagement
      split_ifs with hd hv
      · exact .refl
      · exact .single (.startManagement (.inr ⟨ha, by simpa using hd⟩) hv (ha ▸ h3))
      · exact moves_badSetup (.inr ha) (ha ▸ h4)
    · exact .refl
  · exact .refl
  · exact .refl

/-! ### DMA -/

theorem moves_discardFetch {s : State} {ch start count : Nat} (hf : (s.chan ch).fetch = .reading start count)
    (hq : allow ch .closing .off) : Moves allow own s (s.discardFetch ch) :=
  (Moves.one (.discard hf)).trans (moves_endTeardownIfDrained _ ch hq)

theorem moves_completeWrite {s : State} {ch : Nat} (ha : (s.chan ch).state = .active)
    (hw : (s.chan ch).writes ≠ []) : Moves allow own s (s.completeWrite ch) := by
  unfold State.completeWrite
  dsimp only
  split
  · exact ((Moves.one (.produced ha hw)).trans (core_sendInterrupt ..).moves).tail (.core (.disarm ch))
  · exact .single (.produced ha hw)

end

/-- Every command but TICK, DEVICE_RESET and STARTUP_END is a chain of moves, and what it may do to a channel's state is
what R120 lets it do. -/
theorem exec_moves {c : Instr} {s t : State} (h : exec c s = .next t) (h1 : c ≠ .tick) (h2 : c ≠ .deviceReset)
    (h3 : c ≠ .startupEnd) : Moves (fun n a b => a = b ∨ c.transition n a b = true) (c.reaches s) s t := by
  have hs : ∀ {ch : Fin 16} {u : State}, c.requestChannel = some ch → u.sessions = s.sessions →
      ∀ i, (u.session i).channel = some ch.val → c.reaches s i := fun {ch u} hr hu i hi =>
    .inl ⟨ch, hr, .inr (.inr (by simpa [State.session, hu] using hi))⟩
  have hfree : ∀ {ch : Fin 16} {u : State}, c.requestChannel = some ch → u.sessions = s.sessions →
      ∀ i, (u.session i).channel = none → c.reaches s i := fun {ch u} hr hu i hi =>
    .inl ⟨ch, hr, .inr (.inl (by simpa [State.session, hu] using hi))⟩
  have hall : ∀ {ch : Fin 16}, c.requestChannel = some ch → ch.val = 0 → ∀ i, c.reaches s i := fun {ch} hr h0 i =>
    .inl ⟨ch, hr, .inl (Fin.ext h0)⟩
  cases c
  case openSession =>
    simp only [exec, execOpenSession] at h
    exact moves_takeRequest h fun _ ha hu => moves_openSession ha (hfree rfl hu)
  case closeSession =>
    simp only [exec, execCloseSession] at h
    exact moves_takeRequest h fun _ _ hu => moves_closeSession (hs rfl hu)
  case keepalive =>
    simp only [exec, execKeepalive] at h
    exact moves_takeRequest h fun _ _ hu => moves_keepalive (hs rfl hu)
  case acquire =>
    simp only [exec, execAcquire] at h
    refine moves_takeRequest h fun u ha hu => ?_
    exact moves_acquire (fun hn => (pickClaim_free u hn).1) (searchFreeClaim_lt ..) ha (hs rfl hu)
  case convert =>
    simp only [exec, execConvert] at h
    exact moves_takeRequest h fun _ _ hu => moves_convert (hs rfl hu)
  case release =>
    simp only [exec, execRelease] at h
    exact moves_takeRequest h fun _ _ hu => moves_release (hs rfl hu)
  case cancel =>
    simp only [exec, execCancel] at h
    exact moves_takeRequest h fun _ _ hu => moves_cancel (hs rfl hu)
  case checkFence =>
    simp only [exec, execCheckFence] at h
    exact moves_takeRequest h fun _ _ hu => moves_checkFence (hs rfl hu)
  case unknownKindRequest =>
    simp only [exec, execUnknownKindRequest] at h
    exact moves_takeRequest h fun _ _ _ => (core_reply ..).moves
  case setupChannel =>
    simp only [exec, execSetupChannel] at h
    exact moves_takeRequest h fun _ _ _ => moves_setupChannel (by simp [Instr.transition])
  case teardownChannel =>
    simp only [exec, execTeardownChannel] at h
    refine moves_takeRequest h fun _ _ _ => ?_
    exact moves_teardownChannel (by simp [Instr.transition]) (by simp [Instr.transition]) (by simp [Instr.transition])
      (hall rfl)
  case restartChannel =>
    simp only [exec, execRestartChannel] at h
    exact moves_takeRequest h fun _ _ _ => moves_restartChannel (by simp [Instr.transition])
  case setAccess =>
    simp only [exec, execSetAccess] at h
    exact moves_takeRequest h fun _ _ _ => moves_setAccess
  case setLimits =>
    simp only [exec, execSetLimits] at h
    exact moves_takeRequest h fun _ _ _ => moves_setLimits
  case setTick =>
    simp only [exec, execSetTick] at h
    exact moves_takeRequest h fun _ _ _ => moves_setTick
  case evictSession =>
    simp only [exec, execEvictSession] at h
    exact moves_takeRequest h fun _ _ _ => moves_evictSession (hall rfl)
  case discardResource =>
    simp only [exec, execDiscardResource] at h
    exact moves_takeRequest h fun _ _ _ => moves_discardResource
  case inspectResource =>
    simp only [exec, execInspectResource] at h
    exact moves_takeRequest h fun _ _ _ => moves_inspectResource
  case inspectSession =>
    simp only [exec, execInspectSession] at h
    exact moves_takeRequest h fun _ _ _ => moves_inspectSession
  case inspectDevice =>
    simp only [exec, execInspectDevice] at h
    exact moves_takeRequest h fun _ _ _ => moves_inspectDevice
  case reqProdWrite =>
    cases h; split
    · exact moves_writeReqProd (by simp [Instr.transition])
    · exact .refl
  case rplConsWrite =>
    cases h; split
    · exact moves_writeRplCons (by simp [Instr.transition])
    · exact .refl
  case mgmtControlEnable =>
    cases h; split
    · exact moves_writeMgmtControl (by simp [Instr.transition]) (by simp [Instr.transition])
        (by simp [Instr.transition]) (.inl rfl)
    · exact .refl
  case mgmtControlRestart =>
    cases h; split
    · exact moves_writeMgmtControl (by simp [Instr.transition]) (by simp [Instr.transition])
        (by simp [Instr.transition]) (.inl rfl)
    · exact .refl
  case mgmtRingRegisterWrite =>
    cases h; split
    · exact .single (.registers _)
    · exact .refl
  case otherRegisterWrite => cases h; exact .refl
  case tick => exact absurd rfl h1
  case keepaliveExpiry =>
    cases h; split
    · exact moves_lapse _ (.inr ⟨_, rfl, rfl⟩)
    · exact .refl
  case waitExpiry =>
    cases h; split
    · unfold State.expireWait
      split
      · exact Core.moves ((core_endWait ..).trans (core_finish ..))
      · exact .refl
    · exact .refl
  case fetchIssue =>
    cases h; split
    · rename_i n hn
      exact .single (.fetch (by simpa using List.find?_some hn))
    · exact .refl
  case fetchCompletion =>
    cases h; split
    · split_ifs with hl ha
      · exact .refl
      · exact .single (.entries _ ha ‹_› (by simpa using hl))
      · exact moves_discardFetch ‹_› (by simp [Instr.transition])
    · exact .refl
    · exact .refl
  case fetchError ch =>
    cases h; split
    · split_ifs with ha
      · exact (Moves.one (.discard ‹_›)).trans (moves_fault _ _ _ (by simp [ha]) (by simp [Instr.transition]))
      · exact moves_discardFetch ‹_› (by simp [Instr.transition])
    · exact .refl
    · exact .refl
  case writeCompletion ch =>
    cases h; split_ifs with hw ha
    · exact .refl
    · exact moves_completeWrite ha hw
    · exact (Moves.one (.written hw)).trans (moves_endTeardownIfDrained _ _ (by simp [Instr.transition]))
  case writeError ch =>
    cases h; split_ifs with hw ha
    · exact .refl
    · exact (Moves.one (.written hw)).trans
        (moves_fault _ _ _ (by simp [State.popWrite, ha]) (by simp [Instr.transition]))
    · exact (Moves.one (.written hw)).trans (moves_endTeardownIfDrained _ _ (by simp [Instr.transition]))
  case teardownEnd =>
    cases h
    exact moves_endTeardownIfDrained _ _ (by simp [Instr.transition])
  case deviceReset => exact absurd rfl h2
  case startupEnd => exact absurd rfl h3

end Sys2Proof.Machine
end

