-- ==== Sys2Proof/Laws/Answers.lean ====
section
/-! SUPPORT. Handles read back, and what the taking and answering of a request come to. -/

namespace Sys2Proof.Machine

/-! ### Handles (R167) -/
theorem sessionIndex_sessionHandle {i : Nat} (h : i < 512) (tag : BitVec 7) :
    sessionIndex (sessionHandle i tag) = i := by
  have : (tag ++ BitVec.ofNat 9 i).extractLsb' 0 9 = BitVec.ofNat 9 i := by
    ext k hk; rw [BitVec.getElem_extractLsb', BitVec.getLsbD_append]; simp [hk]
  unfold sessionIndex sessionHandle
  rw [this, BitVec.toNat_ofNat]
  exact Nat.mod_eq_of_lt h

theorem sessionTag_sessionHandle (i : Nat) (tag : BitVec 7) : sessionTag (sessionHandle i tag) = tag := by
  unfold sessionTag sessionHandle
  ext k hk; rw [BitVec.getElem_extractLsb', BitVec.getLsbD_append]; simp [hk]

theorem claimIndex_claimHandle {c : Nat} (h : c < 32768) (tag : BitVec 8) : claimIndex (claimHandle c tag) = c := by
  have : (0#9 ++ tag ++ BitVec.ofNat 15 c).extractLsb' 0 15 = BitVec.ofNat 15 c := by
    ext k hk; rw [BitVec.getElem_extractLsb', BitVec.getLsbD_append]; simp [hk]
  unfold claimIndex claimHandle
  rw [this, BitVec.toNat_ofNat]
  exact Nat.mod_eq_of_lt h

theorem claimTag_claimHandle (c : Nat) (tag : BitVec 8) : claimTag (claimHandle c tag) = tag := by
  unfold claimTag claimHandle
  ext k hk
  rw [BitVec.getElem_extractLsb', BitVec.getLsbD_append, if_neg (by omega), BitVec.getLsbD_append,
    if_pos (by omega), show 15 + k - 15 = k by omega, BitVec.getLsbD_eq_getElem hk]

theorem claimHandleMalformed_claimHandle (c : Nat) (tag : BitVec 8) :
    claimHandleMalformed (claimHandle c tag) = false := by
  have : (0#9 ++ tag ++ BitVec.ofNat 15 c).extractLsb' 23 9 = 0#9 := by
    ext k hk
    rw [BitVec.getElem_extractLsb', BitVec.getLsbD_append, if_neg (by omega), BitVec.getLsbD_append,
      if_neg (by omega)]
    simp
  unfold claimHandleMalformed claimHandle
  rw [this]; rfl

/-! ### The checks of handles (R29, R75) -/
theorem checkSession_opens {s : State} {ch i : Nat} {h : SessionHandle} {o : OpenSession} {x : Option Nat}
    (hn : s.namesOpen ch h i o) (hx : x = none ∨ x = some ch) : s.checkSession x h = .opened i := by
  obtain ⟨hi, rfl, hne, ho, hch⟩ := hn
  unfold State.checkSession
  rw [sessionIndex_sessionHandle hi, sessionTag_sessionHandle, ho, if_neg (by simp [hne])]
  dsimp only
  rw [if_pos (by rw [hch]; exact hx)]

theorem checkClaim_names {s : State} {ch c : Nat} {h : ClaimHandle} {b : Claim} {o : OpenSession}
    (hn : s.namesClaim ch h c b o) : s.checkClaim ch h = some c := by
  obtain ⟨hc, rfl, hb, ho, hch⟩ := hn
  unfold State.checkClaim
  rw [claimIndex_claimHandle hc, claimTag_claimHandle, claimHandleMalformed_claimHandle, hb]
  dsimp only
  rw [if_pos ⟨rfl, rfl, by rw [SessionRec.channel, ho, ← hch]⟩]

/-! ### Taking a request and answering it (R127, R130) -/
theorem nextRequest_active {s : State} {ch : Nat} {i : Instr} (h : s.nextRequest ch = some i) :
    (s.chan ch).state = .active := by
  unfold State.nextRequest at h
  split_ifs at h with ha
  exact ha

/-- The request that stands next to be taken runs its handler on the state without it. -/
theorem takeRequest_next {s : State} {ch : Fin 16} {i : Instr} {f : State → State} (h : s.nextRequest ch = some i) :
    takeRequest ch i f s = .next (f (s.popRequest ch)) := by
  unfold takeRequest; rw [if_pos h]

/-- A channel once its next entry is taken (R127). -/
def Channel.popped (c : Channel) : Channel := { c with fetch := c.fetch.afterTaking }

@[simp] theorem Channel.popped_state (c : Channel) : c.popped.state = c.state := rfl

@[simp] theorem chan_popRequest {s : State} {ch n : Nat} :
    (s.popRequest ch).chan n = if n = ch then (s.chan ch).popped else s.chan n := by
  unfold State.popRequest
  rw [State.chan_setChan]
  rfl

/-- Two states that agree on all but the channel that answers give the same answered state. -/
theorem hand_answered {u v : State} {ch : Nat} (r : Reply) (h : (v.chan ch).state = .active)
    (hu : u.chan ch = (v.chan ch).popped) (huv : ∀ c, u.setChan ch c = v.setChan ch c) :
    u.hand ch r = v.answered ch r := by
  unfold State.hand State.answered
  rw [hu, if_pos (show (v.chan ch).popped.state = .active from h), huv]
  rfl

/-- A request that is answered and does nothing else. -/
theorem popRequest_hand {s : State} {ch : Nat} (r : Reply) (h : (s.chan ch).state = .active) :
    (s.popRequest ch).hand ch r = s.answered ch r := by
  refine hand_answered r h (by simp) fun c => ?_
  unfold State.popRequest State.setChan
  rw [Table.set_set]

theorem searchFreeSession_eq {s : State} {i : Nat} (hf : (s.session i).state = .free) :
   ∀ fuel k, k ≤ i → i < k + fuel → (∀ j, k ≤ j → j < i → (s.session j).state ≠ .free) → s.searchFreeSession fuel k = some i := by
  intro fuel
  induction fuel with
  | zero => intro k h1 h2; omega
  | succ n ih =>
    intro k h1 h2 h3
    unfold State.searchFreeSession
    by_cases hk : k = i
    · subst hk; rw [if_pos (by simp [SessionRec.channel, hf])]
    · rw [if_neg]
      · exact ih (k+1) (by omega) (by omega) fun j hj => h3 j (by omega)
      · have := h3 k le_rfl (by omega)
        unfold SessionRec.channel
        split <;> simp_all

theorem searchFreeSession_none {s : State} :
   ∀ fuel k, (∀ j, k ≤ j → j < k + fuel → (s.session j).state ≠ .free) → s.searchFreeSession fuel k = none := by
  intro fuel
  induction fuel with
  | zero => intros; rfl
  | succ n ih =>
    intro k h3
    unfold State.searchFreeSession
    rw [if_neg]
    · exact ih (k+1) fun j hj h => h3 j (by omega) (by omega)
    · have := h3 k le_rfl (by omega)
      unfold SessionRec.channel
      split <;> simp_all

theorem checkSession_lapses {s : State} {ch i : Nat} {l : LapsedSession} {x : Option Nat} (hi : i < 512)
   (hne : sessionHandle i (s.session i).tag ≠ noSession) (hl : (s.session i).state = .lapsed l) (hc : l.channel = ch) 
   (hx : x = none ∨ x = some ch) : s.checkSession x (sessionHandle i (s.session i).tag) = .lapsed i := by
  unfold State.checkSession
  rw [sessionIndex_sessionHandle hi, sessionTag_sessionHandle, hl, if_neg (by simp [hne])]
  dsimp only
  rw [if_pos (by rw [hc]; exact hx)]

theorem freed_eq (i : Nat) (t : BitVec 7) : SessionRec.freed i t = ⟨nextSessionTag i t, .free⟩ := by
  unfold SessionRec.freed nextSessionTag
  congr 1
  have : t.toNat = 126 ↔ t = 126 := ⟨fun h => BitVec.eq_of_toNat_eq h, fun h => by rw [h]; rfl⟩
  simp only [this]
  have e : BitVec.ofNat 7 (t.toNat + 1) = t + 1 := by
    apply BitVec.eq_of_toNat_eq; simp
  rw [e]

theorem answeredLast_hand {s : State} {ch : Nat} {r : Reply} (h : (s.chan ch).state = .active) : ((s.hand ch r).chan ch).answeredLast r := by
  rw [State.chan_hand, if_pos ⟨rfl, h⟩]
  refine ⟨(s.chan ch).writes, ?_⟩
  have : ((s.chan ch).rplProd + (s.chan ch).writes.length) % (s.chan ch).rplSize = (s.chan ch).writePosition := rfl
  by_cases hp : (s.chan ch).writePosition + 1 = (s.chan ch).rplSize <;>
    simp_all [Channel.issue, Channel.replyAddress, Channel.rplSize]

theorem withdrawPart_none (s : State) (c : Nat) (st : Option Status) (b : Bool) : (s.withdrawPart c st b).claimAt c = none := by
  unfold State.withdrawPart
  rcases hc : s.claimAt c with _ | x
  · exact hc
  · dsimp only
    refine core_none (core_finish _ _) c ?_
    unfold State.withdraw
    rw [hc]; dsimp only
    have : ∀ u : State, (u.freeClaim c).claimAt c = none := fun u => by rw [State.claimAt_freeClaim, if_pos rfl]
    split_ifs
    · rw [State.claimAt_modEntry]; exact this _
    · exact this _

theorem fold_none (l : List Nat) (st : Option Status) (b : Bool) (s : State) : ∀ c ∈ l, (l.foldl (fun s c => s.withdrawPart c st b) s).claimAt c = none := by
  induction l generalizing s with
  | nil => intro c hc; cases hc
  | cons a l ih =>
    intro c hc
    rw [List.foldl_cons]
    rcases List.mem_cons.mp hc with rfl | hc
    · exact core_none (core_foldl _ (fun s c => core_withdrawPart ..) _ _) _ (withdrawPart_none ..)
    · exact ih _ c hc

end Sys2Proof.Machine
end

