-- ==== Sys2Proof/Laws/Requests.lean ====
section
/-! SUPPORT. What the shared operations of requests come to, written out on records. -/

namespace Sys2Proof.Machine

/-! ### Counts after a renewal (R49, R77) -/

theorem cellsSet_indices {α : Type} [DecidableEq α] {d : α} {n : Nat} {v : α} (hv : v ≠ d) (cells : List (Nat × α))
   (h : cellsGet d cells n ≠ d) (hp : cells.Pairwise (fun a b => a.1 < b.1)) : (cellsSet d n v cells).map (·.1) = cells.map (·.1) := by
  induction cells with
  | nil => exact absurd rfl h
  | cons c t ih =>
    obtain ⟨k, w⟩ := c
    obtain ⟨hk, ht⟩ := List.pairwise_cons.mp hp
    unfold cellsSet
    unfold cellsGet at h
    by_cases e : n = k
    · subst e; simp [hv]
    · rw [if_neg e] at h
      have hlt : ¬ n < k := by
        intro hlt
        have hm := mem_of_cellsGet_ne h
        have := hk _ hm
        simp at this; omega
      rw [if_neg hlt, if_neg e]
      simp [ih h ht]

theorem table_indices {α : Type} [DecidableEq α] {d : α} (t : Table α d) (n : Nat) {v : α} (hv : v ≠ d) (h : t.get n ≠ d) :
   (t.set n v).indices = t.indices := cellsSet_indices hv _ h t.canonical.1

theorem sessionsOf_renew {s : State} {i : Nat} {o o' : OpenSession} (ho : (s.session i).state = .opened o) (hc : o'.channel = o.channel) (ch : Nat) :
   (s.setSession i ⟨(s.session i).tag, .opened o'⟩).sessionsOf ch = s.sessionsOf ch := by
  unfold State.sessionsOf
  have : (s.setSession i ⟨(s.session i).tag, .opened o'⟩).sessions.indices = s.sessions.indices := by
    refine table_indices _ _ ?_ ?_
    · intro h; have := congrArg SessionRec.state h; cases this
    · intro h; unfold State.session at ho; rw [h] at ho; cases ho
  rw [this]
  refine List.filter_congr fun j _ => ?_
  rw [State.session_setSession]
  split_ifs with hj
  · subst hj; simp [SessionRec.channel, ho, hc]
  · rfl

theorem claimCount_renew {s : State} {i : Nat} {o o' : OpenSession} (ho : (s.session i).state = .opened o) (hc : o'.channel = o.channel)
   (hl : o'.claims = o.claims) (ch : Nat) :
   (s.setSession i ⟨(s.session i).tag, .opened o'⟩).claimCount ch = s.claimCount ch := by
  unfold State.claimCount State.claimsOf
  rw [sessionsOf_renew ho hc]
  congr 2
  funext j
  rw [State.session_setSession]
  split_ifs with hj
  · subst hj; simp [SessionRec.claims, ho, hl]
  · rfl


/-! ### Coded fields and keys (R2, R46, R167) -/

theorem Mode.ofCode_code (m : Mode) : Mode.ofCode m.code = some m := by cases m <;> rfl

theorem keyOf_key (k : Key) : keyOf (k.domain.setWidth 8) k.name = some k := by
  unfold keyOf
  have h : k.domain.setWidth 8 ≤ 15 := by
    have := k.domain.isLt
    rw [BitVec.le_def]
    simp [BitVec.toNat_setWidth]
    show k.domain.toNat % 256 ≤ 15
    omega
  rw [if_pos h]
  congr 2
  ext j hj; simp


/-! ### The state that a request without an effect of its own leaves -/

theorem popChan_access (s : State) (ch n : Nat) : ((s.popRequest ch).chan n).access = (s.chan n).access := by
  rw [chan_popRequest]; split_ifs with h
  · subst h; rfl
  · rfl

theorem popChan_claimLimit (s : State) (ch n : Nat) : ((s.popRequest ch).chan n).claimLimit = (s.chan n).claimLimit := by
  rw [chan_popRequest]; split_ifs with h
  · subst h; rfl
  · rfl

theorem popRequest_setSession_hand {s : State} {ch i : Nat} {x : SessionRec} {r : Reply} (ha : (s.chan ch).state = .active) :
   ((s.popRequest ch).setSession i x).hand ch r = (s.setSession i x).answered ch r := by
  refine hand_answered _ (by simpa using ha) (by simp) fun c => ?_
  simp [State.popRequest, State.setChan, State.setSession]

theorem alreadyClaimed_iff {s : State} {i : Nat} {k : Key} {o : OpenSession} (ho : (s.session i).state = .opened o) :
   s.alreadyClaimed i k = true ↔ ∃ c ∈ o.claims, ∃ b, s.claimAt c = some b ∧ (s.entry b.way).key = k := by
  unfold State.alreadyClaimed
  rw [SessionRec.claims, ho]
  simp only [List.any_eq_true]
  refine exists_congr fun c => and_congr Iff.rfl ?_
  rcases s.claimAt c with _ | b
  · simp
  · simp


/-! ### The records that the shared operations change, written out -/

theorem modClaim_some {s : State} {c : Nat} {b : Claim} (f : Claim → Claim) (h : s.claimAt c = some b) :
   s.modClaim c f = s.setClaim c ⟨(s.claim c).tag, some (f b)⟩ := by
  unfold State.modClaim; rw [h]

theorem modEntry_active {s : State} {w : Nat} {e : Entry} (f : Entry → Entry) (h : s.way w = .active e) :
   s.modEntry w f = s.setWay w (.active (f e)) := by
  unfold State.modEntry; rw [h]

theorem modOpen_opened {s : State} {i : Nat} {o : OpenSession} (f : OpenSession → OpenSession) (h : (s.session i).state = .opened o) :
   s.modOpen i f = s.setSession i ⟨(s.session i).tag, .opened (f o)⟩ := by
  unfold State.modOpen; rw [h]

theorem allOnes_iff (n : Serial) : n = BitVec.allOnes 48 ↔ n.toNat = 2 ^ 48 - 1 := by
  constructor
  · rintro rfl; simp
  · intro h; exact BitVec.eq_of_toNat_eq (by simpa using h)

theorem hold_eq {s : State} {c w : Nat} {m : Mode} {b : Claim} {e : Entry} (hb : s.claimAt c = some b) (hw : s.way w = .active e) :
  s.hold c w m = { s with
    claims := s.claims.set c ⟨(s.claim c).tag, some { b with state := .held m, serial := if m = .exclusive then s.nextSerial.or b.serial else b.serial }⟩
    ways := s.ways.set w (.active { e with serial := (s.serialFor m).getD e.serial })
    nextSerial := s.counterAfter m } := by
  have hset : s.ways.set w (.active e) = s.ways := by
    have := Table.set_get s.ways w
    rw [show s.ways.get w = .active e from hw] at this; exact this
  unfold State.hold
  dsimp only
  rw [modClaim_some _ hb]
  by_cases hm : m = .exclusive
  · rw [if_pos hm]
    rcases hn : s.nextSerial with _ | n
    · have e1 : s.counterAfter m = none := by simp [State.counterAfter, State.serialFor, hm, hn]
      have e2 : s.serialFor m = none := by simp [State.serialFor, hm, hn]
      unfold State.draw
      rw [State.setClaim_nextSerial, hn, e1, e2]
      simp [State.setClaim, hset]
      exact hn
    · have e2 : s.serialFor m = some n := by simp [State.serialFor, hm, hn]
      have e1 : s.counterAfter m = if n = BitVec.allOnes 48 then none else some (n + 1) := by
        unfold State.counterAfter; rw [e2]; dsimp only; simp only [allOnes_iff]
      unfold State.draw
      rw [State.setClaim_nextSerial, hn, e1, e2]
      dsimp only
      rw [modClaim_some (b := { b with state := .held m }) _ (by simp)]
      rw [modEntry_active (e := e) _ (by simpa using hw)]
      simp [State.setClaim, State.setWay, hm]
      simp [State.claim]
  · rw [if_neg hm]
    have e1 : s.counterAfter m = s.nextSerial := by simp [State.counterAfter, State.serialFor, hm]
    have e2 : s.serialFor m = none := by simp [State.serialFor, hm]
    rw [e1, e2]
    simp [State.setClaim, hset, hm]

theorem allocate_eq {s : State} {c i w : Nat} {st : ClaimState} {o : OpenSession} {e : Entry} (ho : (s.session i).state = .opened o) (hw : s.way w = .active e) :
   s.allocate c i w st = { s with
     claims := s.claims.set c ⟨(s.claim c).tag, some ⟨i, w, st, none, false⟩⟩
     sessions := s.sessions.set i ⟨(s.session i).tag, .opened { o with claims := o.claims ++ [c] }⟩
     ways := s.ways.set w (.active (if st.heldMode.isSome then { e with holders := e.holders ++ [c] } else { e with waits := e.waits ++ [c] }))
     choices := s.choices + 1 } := by
  unfold State.allocate
  dsimp only
  rw [modOpen_opened (o := o) _ (by simpa using ho), modEntry_active (e := e) _ (by simpa using hw)]
  rfl

theorem admits_of_compatible {s : State} {e : Entry} {m : Mode} (h : ∀ c ∈ e.holders, ∀ x, s.heldMode c = some x → x.compatible m = true) : s.admits e m none = true := by
  unfold State.admits
  rw [List.all_eq_true]
  intro c hc
  rcases hm : s.heldMode c with _ | x
  · simp
  · simp [h c hc x hm]

theorem repeatTurn_zero (f : State → Option State) (s : State) : repeatTurn f 0 s = s := rfl

end Sys2Proof.Machine
end

