-- ==== Sys2Proof/Laws/Checks.lean ====
section
/-! SUPPORT. The field-range checks of the handlers, in the words of `Instr.inRange`. -/

namespace Sys2Proof.Machine

/-- A mode code is one of the three (R46, R167). -/
theorem Mode.ofCode_isNone (c : BitVec 8) : (Mode.ofCode c).isNone = !decide (1 ≤ c.toNat ∧ c.toNat ≤ 3) := by
  revert c; decide

/-- A level code is one of the three (R161, R167). -/
theorem Level.ofCode_isNone (c : BitVec 8) : (Level.ofCode c).isNone = !decide (c.toNat ≤ 2) := by
  revert c; decide

@[simp] theorem Level.ofCode_code (l : Level) : Level.ofCode l.code = some l := by cases l <;> rfl

/-- A target channel from 1 to 15 (R156). -/
theorem targetOf_eq (c : BitVec 8) : targetOf c = if targetInRange c then some c.toNat else none := by
  revert c; decide

/-- A domain from 0 to 15 (R46). -/
theorem keyOf_isNone (c : BitVec 8) (n : Name) : (keyOf c n).isNone = !decide (c.toNat ≤ 15) := by
  unfold keyOf
  have : (c ≤ 15) ↔ (c.toNat ≤ 15) := Iff.rfl
  split_ifs with h <;> simp_all

theorem ringSizeValid_eq (n : Nat) : ringSizeValid n = sizeInRange n := by
  unfold ringSizeValid sizeInRange
  rw [show List.range 9 = [0, 1, 2, 3, 4, 5, 6, 7, 8] from rfl]
  simp [Bool.beq_eq_decide_eq]

/-- The settings of a SETUP_CHANNEL whose ranges pass (R157). -/
theorem setupRings_eq (v : BitVec 8) (sl cl : BitVec 16) (rb pb : HostAddr) (rs ps : BitVec 16) :
    setupRings v sl cl rb pb rs ps =
      if decide (v.toNat ≤ 15) && decide (sl.toNat ≤ 512) && decide (cl.toNat ≤ 32768) && rb.toNat % 64 == 0
        && pb.toNat % 64 == 0 && sizeInRange rs.toNat && sizeInRange ps.toNat
      then some ⟨rb, rs.toNat, pb, ps.toNat, v.toNat⟩ else none := by
  unfold setupRings Rings.valid ringBaseValid
  simp only [ringSizeValid_eq]
  have h1 : (sl ≤ 512) ↔ (sl.toNat ≤ 512) := Iff.rfl
  have h2 : (cl ≤ 32768) ↔ (cl.toNat ≤ 32768) := Iff.rfl
  congr 1
  simp only [h1, h2, Bool.and_eq_true, decide_eq_true_eq, eq_iff_iff]
  tauto

theorem fin_val_eq_zero (ch : Fin 16) : (ch.val = 0) = (ch = 0) :=
  propext ⟨fun h => Fin.ext h, fun h => h ▸ rfl⟩

end Sys2Proof.Machine
end

