-- ==== Sys2Proof/Laws/Entries.lean ====
section
/-! SUPPORT. Reading back the fields that an entry was put together from. -/

namespace Sys2Proof

/-- A field of two entries put together is the two fields put together. -/
theorem bytesAt_or (a b : RingEntry) (off n : Nat) : bytesAt (a ||| b) off n = bytesAt a off n ||| bytesAt b off n := by
  unfold bytesAt
  ext k hk
  simp [BitVec.getElem_extractLsb']

theorem getLsbD_putAt {m : Nat} (off : Nat) (v : BitVec m) (k : Nat) :
    (putAt off v).getLsbD k = (decide (k < 512) && decide (8 * off ≤ k) && v.getLsbD (k - 8 * off)) := by
  unfold putAt
  rw [BitVec.getLsbD_shiftLeft, BitVec.getLsbD_setWidth]
  by_cases h1 : k < 512 <;> by_cases h2 : k < 8 * off <;> simp [h1, h2]
  have : k - 8 * off < 512 := by omega
  simp [this, Nat.not_lt.mp h2]

/-- A field read where it was put. -/
theorem bytesAt_putAt {n : Nat} (off : Nat) (v : BitVec n) (h : 8 * off + n ≤ 512) : bytesAt (putAt off v) off n = v := by
  unfold bytesAt
  ext k hk
  rw [BitVec.getElem_extractLsb', getLsbD_putAt]
  have h1 : 8 * off + k < 512 := by omega
  simp [h1, BitVec.getLsbD_eq_getElem hk]

/-- A field read where another was put, below or above it. -/
theorem bytesAt_putAt_disjoint {m : Nat} (off off' n : Nat) (v : BitVec m)
    (h : 8 * off + n ≤ 8 * off' ∨ 8 * off' + m ≤ 8 * off) : bytesAt (putAt off' v) off n = 0 := by
  unfold bytesAt
  ext k hk
  rw [BitVec.getElem_extractLsb', getLsbD_putAt]
  rcases h with h | h
  · have : ¬ 8 * off' ≤ 8 * off + k := by omega
    simp [this]
  · have : v.getLsbD (8 * off + k - 8 * off') = false := BitVec.getLsbD_of_ge _ _ (by omega)
    simp [this]

theorem bitAt_or (a b : RingEntry) (off k : Nat) : bitAt (a ||| b) off k = (bitAt a off k || bitAt b off k) := by
  unfold bitAt
  rw [BitVec.getLsbD_or]

/-- A bit read where a field was put. -/
theorem bitAt_putAt {m : Nat} (off k : Nat) (v : BitVec m) (h : 8 * off + k < 512) :
    bitAt (putAt off v) off k = v.getLsbD k := by
  unfold bitAt
  rw [getLsbD_putAt]
  simp [h]

/-- A bit read where another field was put, below or above it. -/
theorem bitAt_putAt_disjoint {m : Nat} (off off' k : Nat) (v : BitVec m)
    (h : 8 * off + k < 8 * off' ∨ 8 * off' + m ≤ 8 * off + k) : bitAt (putAt off' v) off k = false := by
  unfold bitAt
  rw [getLsbD_putAt]
  rcases h with h | h
  · have : ¬ 8 * off' ≤ 8 * off + k := by omega
    simp [this]
  · have : v.getLsbD (8 * off + k - 8 * off') = false := BitVec.getLsbD_of_ge _ _ (by omega)
    simp [this]

end Sys2Proof
end

