-- ==== Sys2Proof/Laws/Parts.lean ====
section
/-! SUPPORT. The order of the parts of a fault or teardown (R43, R80): it takes each part once, and while parts are left one of
them may be taken next. -/

namespace Sys2Proof.Machine

variable {lists : List (List Nat)} {rest : List Nat}

/-- A free choice is one of the list, and there is one unless the list is empty. -/
theorem freePick_mem {k w : Nat} {l : List Nat} (h : freePick k l = some w) : w ∈ l := by
  unfold freePick at h
  split at h
  · cases h
  · exact List.mem_singleton.mpr (Option.some.inj h).symm
  · exact List.mem_of_getElem? h

theorem freePick_exists (k : Nat) {l : List Nat} (h : l ≠ []) : ∃ w, freePick k l = some w := by
  unfold freePick
  split
  · exact absurd rfl h
  · exact ⟨_, rfl⟩
  · exact ⟨_, List.getElem?_eq_getElem (Nat.mod_lt _ (List.length_pos_of_ne_nil h))⟩

/-- The order of the parts takes each of them once. -/
theorem partOrder_perm (fuel k : Nat) : (partOrder lists fuel k rest).Perm rest := by
  induction fuel generalizing k rest with
  | zero => exact .refl _
  | succ n ih =>
    unfold partOrder
    split
    · exact (ih (k + 1)).cons _ |>.trans (List.perm_cons_erase (List.mem_of_mem_filter (freePick_mem ‹_›))).symm
    · exact .refl _

/-! ### The chains -/

/-- One step back from the ways `ws`. -/
def stepBack (lists : List (List Nat)) (rest ws : List Nat) : List Nat :=
  rest.filter fun x => ws.contains x || ws.any (precedes lists x)

theorem forerunners_succ (n : Nat) (ws : List Nat) :
    forerunners lists rest (n + 1) ws = stepBack lists rest (forerunners lists rest n ws) := by
  induction n generalizing ws with
  | zero => rfl
  | succ n ih => rw [forerunners, ih]; rfl

theorem mem_stepBack {ws : List Nat} {x : Nat} :
    x ∈ stepBack lists rest ws ↔ x ∈ rest ∧ (x ∈ ws ∨ ∃ y ∈ ws, precedes lists x y = true) := by
  simp [stepBack]

theorem stepBack_mono {ws ws' : List Nat} (h : ws ⊆ ws') : stepBack lists rest ws ⊆ stepBack lists rest ws' := by
  intro x hx
  rw [mem_stepBack] at hx ⊢
  exact ⟨hx.1, hx.2.imp (@h x) fun ⟨y, hy, hp⟩ => ⟨y, h hy, hp⟩⟩

/-- A step back from ways of `rest` that finds nothing new finds nothing ever after. -/
theorem forerunners_closed {w : Nat} (hw : w ∈ rest) :
    stepBack lists rest (chainTo lists rest w) ⊆ chainTo lists rest w := by
  let A (n : Nat) := forerunners lists rest n [w]
  have hs (n : Nat) : A (n + 1) = stepBack lists rest (A n) := forerunners_succ n _
  have hsub (n : Nat) : A n ⊆ rest := by
    cases n with
    | zero => exact fun x hx => List.mem_singleton.mp hx ▸ hw
    | succ n => rw [hs]; exact fun x hx => (mem_stepBack.mp hx).1
  have hinc (n : Nat) : A n ⊆ A (n + 1) := fun x hx => by
    rw [hs]; exact mem_stepBack.mpr ⟨hsub n hx, .inl hx⟩
  have hstop (n : Nat) : A (n + 1) ⊆ A n ∨ n + 1 ≤ (A n).toFinset.card := by
    induction n with
    | zero => exact .inr (by simp [A, forerunners])
    | succ n ih =>
      rcases ih with h | h
      · exact .inl (by rw [hs (n + 1), hs n]; exact stepBack_mono (by rw [← hs]; exact h))
      · by_cases hh : A (n + 1) ⊆ A n
        · exact .inl (by rw [hs (n + 1), hs n]; exact stepBack_mono (by rw [← hs]; exact hh))
        · refine .inr (Nat.succ_le_of_lt (Nat.lt_of_le_of_lt h (Finset.card_lt_card ⟨?_, ?_⟩)))
          · intro x hx; simp only [List.mem_toFinset] at hx ⊢; exact hinc n hx
          · intro hc; exact hh fun x hx => by simpa using hc (by simpa using hx)
  show stepBack lists rest (A rest.length) ⊆ A rest.length
  rw [← hs]
  rcases hstop rest.length with h | h
  · exact h
  · have : (A rest.length).toFinset.card ≤ rest.length :=
      (Finset.card_le_card fun x hx => by simpa using hsub _ (by simpa using hx)).trans (List.toFinset_card_le rest)
    omega

theorem mem_chainTo_self (hw : w ∈ rest) : w ∈ chainTo lists rest w := by
  have (n : Nat) : w ∈ forerunners lists rest n [w] := by
    induction n with
    | zero => exact List.mem_singleton.mpr rfl
    | succ n ih => rw [forerunners_succ]; exact mem_stepBack.mpr ⟨hw, .inl ih⟩
  exact this _

theorem chainTo_subset (hw : w ∈ rest) : chainTo lists rest w ⊆ rest := by
  have (n : Nat) : forerunners lists rest n [w] ⊆ rest := by
    cases n with
    | zero => exact fun x hx => List.mem_singleton.mp hx ▸ hw
    | succ n => rw [forerunners_succ]; exact fun x hx => (mem_stepBack.mp hx).1
  exact this _

/-- What stands before a way of a chain stands in the chain. -/
theorem chainTo_trans (hw : w ∈ rest) {x : Nat} (hx : x ∈ chainTo lists rest w) :
    chainTo lists rest x ⊆ chainTo lists rest w := by
  have (n : Nat) : forerunners lists rest n [x] ⊆ chainTo lists rest w := by
    induction n with
    | zero => exact fun y hy => List.mem_singleton.mp hy ▸ hx
    | succ n ih => rw [forerunners_succ]; exact fun y hy => forerunners_closed hw (stepBack_mono ih hy)
  exact this _

/-- A part that may be taken next stands behind no other part left, but for those that the lists also put behind it. -/
theorem nextParts_before (h : w ∈ nextParts lists rest) {x : Nat} (hx : x ∈ rest) (hp : precedes lists x w = true) :
    w ∈ chainTo lists rest x := by
  obtain ⟨hw, hc⟩ := List.mem_filter.mp h
  simp only [Bool.and_eq_true, List.all_eq_true] at hc
  exact List.contains_iff_mem.mp (hc.1 x (forerunners_closed hw (mem_stepBack.mpr ⟨hx, .inr ⟨w, mem_chainTo_self hw, hp⟩⟩)))

/-- While parts are left, one of them may be taken next. -/
theorem nextParts_ne_nil (h : rest ≠ []) : nextParts lists rest ≠ [] := by
  obtain ⟨w, hw, hmin⟩ := rest.toFinset.exists_min_image (fun w => (chainTo lists rest w).toFinset.card)
    (by simpa using h)
  simp only [List.mem_toFinset] at hw hmin
  have back {v x : Nat} (hv : v ∈ chainTo lists rest w) (hx : x ∈ chainTo lists rest v) : v ∈ chainTo lists rest x := by
    have hvr := chainTo_subset hw hv
    have hxr := chainTo_subset hvr hx
    have hsub : (chainTo lists rest x).toFinset ⊆ (chainTo lists rest w).toFinset := fun y hy => by
      simp only [List.mem_toFinset] at hy ⊢
      exact chainTo_trans hw hv (chainTo_trans hvr hx hy)
    have := Finset.eq_of_subset_of_card_le hsub (hmin x hxr)
    have hm : v ∈ (chainTo lists rest w).toFinset := by simpa using hv
    rw [← this] at hm
    simpa using hm
  have found {v : Nat} (hv : v ∈ chainTo lists rest w)
      (hf : (∀ l ∈ lists, v ∉ l) ∨ ∃ l ∈ lists, l.find? rest.contains = some v) : nextParts lists rest ≠ [] := by
    refine List.ne_nil_of_mem (a := v) (List.mem_filter.mpr ⟨chainTo_subset hw hv, ?_⟩)
    simp only [Bool.and_eq_true, Bool.or_eq_true, List.all_eq_true, List.any_eq_true]
    refine ⟨fun x hx => by simpa using back hv hx, hf.imp (fun h l hl => by simpa using h l hl) ?_⟩
    exact fun ⟨l, hl, h⟩ => ⟨l, hl, by rw [h]; exact beq_self_eq_true _⟩
  by_cases hl : ∀ l ∈ lists, w ∉ l
  · exact found (mem_chainTo_self hw) (.inl hl)
  obtain ⟨l, hl, hwl⟩ : ∃ l ∈ lists, w ∈ l := by by_contra hc; exact hl fun l hl h => hc ⟨l, hl, h⟩
  have hwr : rest.contains w = true := List.contains_iff_mem.mpr hw
  obtain ⟨x, hx⟩ := Option.isSome_iff_exists.mp (List.find?_isSome.mpr ⟨w, hwl, hwr⟩)
  have hxr : rest.contains x = true := List.find?_some hx
  refine found ?_ (.inr ⟨l, hl, hx⟩)
  by_cases he : x = w
  · rw [he]; exact mem_chainTo_self hw
  refine forerunners_closed hw (mem_stepBack.mpr ⟨List.contains_iff_mem.mp hxr, .inr ⟨w, mem_chainTo_self hw, ?_⟩⟩)
  obtain ⟨-, as, bs, rfl, has⟩ := List.find?_eq_some_iff_append.mp hx
  have hwa : w ∉ as := fun h => absurd hwr (by simpa using has w h)
  have hxa : x ∉ as := fun h => absurd hxr (by simpa using has x h)
  refine List.any_eq_true.mpr ⟨_, hl, ?_⟩
  simp only [Bool.and_eq_true, List.contains_iff_mem, decide_eq_true_eq]
  refine ⟨⟨by simp, hwl⟩, ?_⟩
  rw [List.idxOf_append_of_notMem hxa, List.idxOf_append_of_notMem hwa, List.idxOf_cons_self, List.idxOf_cons_ne _ he]
  omega

end Sys2Proof.Machine
end

