-- ==== Sys2Proof/Tests/Slice0.lean ====
section
/-! SUPPORT. Tests: what WellFormed refuses, entries written out by hand from the layouts of R167 to R169, the worked bucket
index of spec/01, single steps on a small state, and for each statement with hypotheses states that meet them. Expected
values are worked out by hand from the rules named. -/

namespace Sys2Proof.Tests

open Sys2Proof Sys2Proof.Machine

set_option maxRecDepth 20000
set_option exponentiation.threshold 600

/-! ### WellFormed -/

theorem test_refuses_known_kind : (Instr.unknownKindRequest 1 0 0x2A).wellFormed = false := by decide
theorem test_accepts_notice_kind : (Instr.unknownKindRequest 1 0 0x0100).wellFormed = true := by decide
theorem test_refuses_enable_without_bit : (Instr.mgmtControlEnable 2).wellFormed = false := by decide
theorem test_refuses_restart_without_bit : (Instr.mgmtControlRestart 1).wellFormed = false := by decide
theorem test_refuses_wide_size : (Instr.mgmtRingRegisterWrite .reqSize 0x100000000).wellFormed = false := by decide
theorem test_refuses_writable_register : (Instr.otherRegisterWrite 0x1000 4 0).wellFormed = false := by decide
theorem test_refuses_unaligned_write : (Instr.otherRegisterWrite 0x1002 4 0).wellFormed = false := by decide
theorem test_refuses_wide_data : (Instr.otherRegisterWrite 0x1000 1 0x100).wellFormed = false := by decide
theorem test_refuses_wide_access : (Instr.otherRegisterWrite 0x1000 8 0).wellFormed = false := by decide
theorem test_refuses_empty_fetch : (Instr.fetchCompletion 1 []).wellFormed = false := by decide
theorem test_refuses_fetch_of_five : (Instr.fetchCompletion 1 [0, 0, 0, 0, 0]).wellFormed = false := by decide

/-! ### Entries (R167, R168, R169), written most significant byte first: byte 0 is the last pair of digits -/

theorem test_open_session_entry :
    decodeEntry 1 0x01003C0000000012340001 = .openSession 1 0x1234 0x003C true := by decide
theorem test_acquire_entry : decodeEntry 2 0x00000000DEADBEEF00000000FFFF030500000A0200070004 =
    .acquire 2 0x0007 0x0A02 5 3 0xFFFF 0xDEADBEEF := by decide
theorem test_release_entry : decodeEntry 3 0x010000000000000000000000000000000000000200000500080000000000110006 =
    .release 3 0x0011 0x00050008 false true 1 := by decide
theorem test_set_access_entry : decodeEntry 0 0x0207030000000000090023 = .setAccess 0 0x0009 3 7 2 := by decide
theorem test_unknown_entry : decodeEntry 4 0x00090100 = .unknownKindRequest 4 0x0009 0x0100 := by decide

/-- The worked index of spec/01: domain 3 with name 0x0123456789ABCDEF lives in bucket 0x59F, and so does its neighbour. -/
theorem test_bucket : Key.bucket ⟨3, 0x0123456789ABCDEF⟩ = 0x59F ∧ Key.bucket ⟨3, 0x0123456789ABDDEE⟩ = 0x59F := by decide

/-! ### A small state -/

/-- An ACTIVE channel with rings of 16 entries, FULL access in domain 3 and CHECK in domain 4. -/
def chanOf (n : Nat) : Channel :=
  { Channel.reset with
    state := .active
    rings := some ⟨BitVec.ofNat 64 (0x10000 * n), 16, BitVec.ofNat 64 (0x10000 * n + 0x8000), 16, n⟩
    sessionLimit := 4, claimLimit := 8, access := (Table.empty.set 3 .full).set 4 .check }

/-- The fields of a session of channel `ch` with period 50, due at tick 120, notices enabled. -/
def openOn (ch : Nat) (claims : List Nat) : OpenSession := ⟨ch, 50, ⟨120, false⟩, true, claims⟩

/-- Channels 0 to 2 ACTIVE, session 0 OPEN on channel 1 with tag 5, session 1 OPEN on channel 2, session 2 LAPSED on
channel 1; now 100, next serial 7. -/
def base : State :=
  { State.reset with
    ready := true, now := 100, nextSerial := some 7
    channels := ((Table.empty.set 0 (chanOf 0)).set 1 (chanOf 1)).set 2 (chanOf 2)
    sessions := ((Table.empty.set 0 ⟨5, .opened (openOn 1 [])⟩).set 1 ⟨0, .opened (openOn 2 [])⟩).set 2
      ⟨3, .lapsed ⟨1, .expired, false⟩⟩ }

/-- `s` with request `i` fetched on channel `ch` and next to be taken. -/
def asked (s : State) (ch : Nat) (i : Instr) : State := s.setChan ch { s.chan ch with fetch := .taking [i], owed := 1 }

/-- The key and the way that the tests use. -/
def key3 : Key := ⟨3, 0x1234⟩
def way3 : Nat := 4 * key3.bucket + 1

/-- `s` with an ACTIVE entry at `way3` whose claims are given by record, session, state and serial. -/
def held (s : State) (l : List (Nat × Nat × ClaimState × Option Serial)) (value : ValueBlock := .valid 1) : State :=
  let s := l.foldl (fun s x =>
    (s.setClaim x.1 ⟨9, some ⟨x.2.1, way3, x.2.2.1, x.2.2.2, false⟩⟩).modOpen x.2.1 fun o =>
      { o with claims := o.claims ++ [x.1] }) s
  s.setWay way3 (.active
    { key := key3
      holders := (l.filter fun x => x.2.2.1.heldMode.isSome).map (·.1)
      converts := (l.filter fun x => x.2.2.1.heldMode.isSome && x.2.2.1.wantedMode.isSome).map (·.1)
      waits := (l.filter fun x => x.2.2.1.heldMode.isNone).map (·.1)
      serial := 6, value := value })

/-- The claim in record 30, of session 0. -/
def claim30 (st : ClaimState) (n : Option Serial := none) : Claim := ⟨0, way3, st, n, false⟩
def h30 : ClaimHandle := claimHandle 30 9
def hs0 : SessionHandle := sessionHandle 0 5

/-- A wait without a deadline, and one whose deadline is due. -/
def noLimit : Wait := ⟨8, none⟩
def dueWait : Wait := ⟨8, some ⟨99, true⟩⟩

/-- The next state of an outcome, or `base`. -/
def after : Host.Outcome State Fault Refusal → State
  | .next t => t
  | .fault _ => base
  | .refused _ => base

/-- The status byte of the last entry written on a channel. -/
def lastStatus (s : State) (ch : Nat) : BitVec 8 :=
  match (s.chan ch).writes.getLast? with
  | some w => bytesAt w.bytes 4 8
  | none => 0xFF

/-- Session 0 names itself OPEN on channel 1 in any state that leaves its record alone. -/
def cv (m : Mode) (present invalidate : Bool) (limit : BitVec 16) : Instr :=
  .convert 1 77 h30 m.code present invalidate limit 0xABCD
def rel (present invalidate : Bool) : Instr := .release 1 5 h30 present invalidate 0x77
def can : Instr := .cancel 1 5 hs0 3 0x1234
def acq (m : Mode) (limit : BitVec 16) : Instr := .acquire 1 77 hs0 3 m.code limit 0x1234
def fence (h : SessionHandle) (n : Serial) : Instr := .checkFence 1 9 h 3 0x1234 n

/-! ### Single steps -/

theorem test_open_session_takes_lowest_free :
    ((after (exec (.openSession 1 7 50 true) (asked base 1 (.openSession 1 7 50 true)))).session 3).state =
      .opened ⟨1, 50, ⟨150, false⟩, true, []⟩ := by decide
theorem test_keepalive_reports_deadline :
    (after (exec (.keepalive 1 7 hs0) (asked base 1 (.keepalive 1 7 hs0)))).session 0 =
      ⟨5, .opened ⟨1, 50, ⟨150, false⟩, true, []⟩⟩ := by decide
theorem test_close_lapsed_advances_tag :
    (after (exec (.closeSession 1 7 (sessionHandle 2 3)) (asked base 1 (.closeSession 1 7 (sessionHandle 2 3))))).session 2 =
      ⟨4, .free⟩ := by decide
theorem test_last_record_tag_wraps : nextSessionTag 511 126 = 0 ∧ nextSessionTag 510 127 = 0 := by decide
theorem test_release_leaves_dormant_value :
    (after (exec (rel true false) (asked (held base [(30, 0, .held .exclusive, some 6)]) 1 (rel true false)))).way way3 =
      .dormant ⟨key3, [], [], [], 6, .valid 0x77⟩ := by decide
theorem test_release_hands_value_over :
    ((after (exec (rel false true) (asked (held base
      [(30, 0, .held .exclusive, some 6), (31, 1, .waiting .exclusive noLimit, none)]) 1 (rel false true)))).entry way3) =
        ⟨key3, [31], [], [], 7, .invalid 1⟩ := by decide
theorem test_downgrade_lets_waiter_in :
    ((after (exec (cv .shared false false 0) (asked (held base
      [(30, 0, .held .exclusive, some 6), (31, 1, .waiting .shared noLimit, none)]) 1 (cv .shared false false 0)))).entry
        way3).holders = [30, 31] := by decide
theorem test_s_to_x_is_bad_conversion :
    lastStatus (after (exec (cv .exclusive false false 0)
      (asked (held base [(30, 0, .held .shared, none)]) 1 (cv .exclusive false false 0)))) 1 = 0x17 := by decide
theorem test_cancel_of_held_is_too_late :
    lastStatus (after (exec can (asked (held base [(30, 0, .held .shared, none)]) 1 can))) 1 = 0x05 := by decide
theorem test_fence_current_verdict :
    ((after (exec (fence noSession 6) (asked (held base [(30, 0, .held .exclusive, some 6)]) 1 (fence noSession 6)))).chan
      1).writes.map (fun w => bytesAt w.bytes 8 8) = [1] := by decide
theorem test_unknown_kind_is_bad_request :
    lastStatus (after (exec (.unknownKindRequest 0 3 0x30) (asked base 0 (.unknownKindRequest 0 3 0x30)))) 0 = 0x10 := by
  decide
theorem test_set_access_refuses_level_three :
    lastStatus (after (exec (.setAccess 0 3 1 3 3) (asked base 0 (.setAccess 0 3 1 3 3)))) 0 = 0x10 := by decide
theorem test_wait_expiry_frees :
    (after (exec (.waitExpiry 30) (held base [(31, 1, .held .exclusive, some 6), (30, 0, .waiting .shared dueWait, none)]))).claim
      30 = ⟨10, none⟩ := by decide
theorem test_tick_makes_due :
    ((after (exec .tick { base with now := 119 })).session 0).state = .opened ⟨1, 50, ⟨120, true⟩, true, []⟩ := by decide
theorem test_last_position_flips_phase :
    ((after (exec (.keepalive 1 7 hs0) ((asked base 1 (.keepalive 1 7 hs0)).setChan 1
      { chanOf 1 with rplProd := 15, rplCons := 15, owed := 1, fetch := .taking [.keepalive 1 7 hs0] }))).chan 1).phase =
        false := by decide
/-- Two wait in X and one serial is left: the first is granted it, and the second is removed (R36, R38; log entry 24). -/
def lastSerial : State :=
  (held { base with nextSerial := some 0xFFFFFFFFFFFF }
    [(30, 0, .waiting .exclusive noLimit, none), (31, 1, .waiting .exclusive noLimit, none)]).modOpen 0
      fun o => { o with notices := false }
theorem test_last_serial_removes_next_head :
    (lastSerial.finish way3).entry way3 = ⟨key3, [30], [], [], 0xFFFFFFFFFFFF, .valid 1⟩ := by decide
theorem test_teardown_follows_claim_list : partOrder [[5, 3, 4], [4, 7]] 4 0 [3, 4, 5, 7] = [5, 3, 4, 7] := by decide
/-- Lists that contradict each other on ways 1 and 2 free the order of these two only: 4 still comes behind 3. -/
theorem test_contradiction_frees_its_parts_only : nextParts [[1, 2, 3], [2, 1], [3, 4]] [1, 2, 3, 4] = [1, 2] ∧
    partOrder [[1, 2, 3], [2, 1], [3, 4]] 3 0 [2, 3, 4] = [2, 3, 4] := by decide
theorem test_status_register : base.read32 0 = 0x00000003 ∧ base.read32 0x1110 = 0x00000001 := by decide


/-! ### Witnesses: for each statement with hypotheses, states and operands that meet them, clause by clause -/

/-- A table whose first `n` records are all `v`. -/
def fullTable {α : Type} {d : α} (n : Nat) (v : α) (h : v ≠ d) : Table α d :=
  ⟨(List.range n).map fun i => (i, v), by
    refine ⟨List.pairwise_map.mpr List.pairwise_lt_range, fun p hp => ?_⟩
    obtain ⟨i, -, rfl⟩ := List.mem_map.mp hp
    exact h⟩

theorem fullTable_get {α : Type} {d : α} {n : Nat} {v : α} {h : v ≠ d} {i : Nat} (hi : i < n) :
    (fullTable n v h).get i = v :=
  cellsGet_of_mem (fullTable n v h).canonical.1 (List.mem_map.mpr ⟨i, List.mem_range.mpr hi, rfl⟩)

theorem fullTable_count {α : Type} {d : α} {n : Nat} {v : α} {h : v ≠ d} {p : α → Bool} (hp : p v = true) :
    (fullTable n v h).count p = n := by
  rw [Table.count, List.filter_eq_self.mpr fun c hc => by obtain ⟨i, -, rfl⟩ := List.mem_map.mp hc; exact hp]
  simp [fullTable]

/-- Channel `ch` with `f` applied to its record. -/
def withChan (s : State) (ch : Nat) (f : Channel → Channel) : State := s.setChan ch (f (s.chan ch))

/-- A request of channel 0, next to be taken. -/
def rq (i : Instr) (s : State := base) : State := asked s 0 i

def opn (period : BitVec 16) : Instr := .openSession 1 7 period true

theorem witness_ResetValues : base.ready = true ∧ State.reset.ready = false := by decide

theorem witness_EntryRoundTrip :
    (acq .exclusive 65535).wellFormed = true ∧ (acq .exclusive 65535).requestChannel = some 1 ∧
    encodeEntry (acq .exclusive 65535) = some 0x000000000000123400000000FFFF030300000A00004D0004 := by decide
theorem witness_EntryRoundTrip_address :
    (base.chan 1).rings = some ⟨0x10000, 16, 0x18000, 16, 1⟩ ∧ (0xFFFFFFFFFFFFFC00 : HostAddr).toNat + 64 * 15 < 2 ^ 64 := by
  decide

theorem witness_OpenSessionOpens_opens :
    (asked base 1 (opn 65535)).nextRequest 1 = some (opn 65535) ∧
    (asked base 1 (opn 65535)).sessionCount 1 < ((asked base 1 (opn 65535)).chan 1).sessionLimit ∧
    ((asked base 1 (opn 65535)).session 3).state = .free ∧
    ∀ j < 3, ((asked base 1 (opn 65535)).session j).state ≠ .free := by decide

/-- Every session record LAPSED, of channel 2. -/
def allLapsed : SessionRec := ⟨0, .lapsed ⟨2, .expired, false⟩⟩
def noSessions : State := { base with sessions := fullTable 512 allLapsed (by decide) }

theorem witness_OpenSessionOpens_noRecord :
    (asked noSessions 1 (opn 1)).nextRequest 1 = some (opn 1) ∧
    (asked noSessions 1 (opn 1)).sessionCount 1 < ((asked noSessions 1 (opn 1)).chan 1).sessionLimit ∧
    ∀ i < 512, ((asked noSessions 1 (opn 1)).session i).state ≠ .free := by
  refine ⟨by decide, ?_, fun i hi => ?_⟩
  · have h : (asked noSessions 1 (opn 1)).sessionsOf 1 = [] := by
      refine List.filter_eq_nil_iff.mpr fun i hi => ?_
      obtain ⟨p, hp, rfl⟩ := List.mem_map.mp hi
      obtain ⟨j, hj, rfl⟩ := List.mem_map.mp hp
      rw [show (asked noSessions 1 (opn 1)).session j = allLapsed from
        fullTable_get (h := by decide) (List.mem_range.mp hj)]
      decide
    rw [State.sessionCount, h]
    decide
  · rw [show (asked noSessions 1 (opn 1)).session i = allLapsed from
      fullTable_get (h := by decide) hi]
    nofun

theorem witness_OpenSessionOpens_quota :
    (asked (withChan base 1 ({ · with sessionLimit := 2 })) 1 (opn 1)).nextRequest 1 = some (opn 1) ∧
    ((asked (withChan base 1 ({ · with sessionLimit := 2 })) 1 (opn 1)).chan 1).sessionLimit ≤
      (asked (withChan base 1 ({ · with sessionLimit := 2 })) 1 (opn 1)).sessionCount 1 := by decide

def kpa : Instr := .keepalive 1 7 hs0
theorem witness_KeepaliveRenews : (asked base 1 kpa).nextRequest 1 = some kpa ∧
    (asked base 1 kpa).namesOpen 1 hs0 0 (openOn 1 []) := by unfold State.namesOpen; decide

def cls (h : SessionHandle) : Instr := .closeSession 1 7 h
def twoClaims : State := held base [(30, 0, .held .shared, none), (31, 1, .waiting .exclusive noLimit, none)]
theorem witness_CloseSessionFrees :
    ((asked twoClaims 1 (cls hs0)).nextRequest 1 = some (cls hs0) ∧
      (asked twoClaims 1 (cls hs0)).namesOpen 1 hs0 0 (openOn 1 [30])) ∧
    (asked base 1 (cls (sessionHandle 2 3))).nextRequest 1 = some (cls (sessionHandle 2 3)) ∧
    (asked base 1 (cls (sessionHandle 2 3))).session 2 = ⟨3, .lapsed ⟨1, .expired, false⟩⟩ ∧
    sessionHandle 2 3 ≠ noSession := by unfold State.namesOpen; decide

/-- Session 0 has the one claim in record 30, in state `st`, beside a claim of session 1 in state `st'`. -/
def alone (st st' : ClaimState) : State := held base [(30, 0, st, some 6), (31, 1, st', none)]
theorem witness_onlyClaim : ∀ p ∈ [(ClaimState.held .shared, ClaimState.held .shared, [31], ([] : List Nat), ([] : List Nat)),
      (.waiting .exclusive noLimit, .held .shared, [31], [], [30]),
      (.converting .shared .update noLimit, .held .update, [31], [30], [])],
    let s := asked (alone p.1 p.2.1) 1 (cls hs0)
    s.nextRequest 1 = some (cls hs0) ∧ (s.session 0).state = .opened (openOn 1 [30]) ∧ (openOn 1 [30]).claims = [30] ∧
    s.claimAt 30 = some (claim30 p.1 (some 6)) ∧ (claim30 p.1 (some 6)).session = 0 ∧ (s.way way3).wayState = .active ∧
    (s.entry way3).converts = p.2.2.2.1 ∧ (s.entry way3).waits = p.2.2.2.2 := by decide
/-- Session 0 holds key3 in X with a VALID value, alone. -/
def sole (s : State := base) : State := held s [(30, 0, .held .exclusive, some 6)]
theorem witness_soleExclusive {s : State} (h : s.claimAt 30 = some (claim30 (.held .exclusive) (some 6)) ∧
    s.way way3 = .active ⟨key3, [30], [], [], 6, .valid 1⟩) :
    s.soleExclusive [30] 30 way3 ⟨key3, [30], [], [], 6, .valid 1⟩ 1 :=
  ⟨by decide, ⟨_, h.1, rfl, rfl⟩, h.2, rfl, rfl, rfl, rfl⟩
theorem witness_CloseSessionFrees_sole : (asked sole 1 (cls hs0)).nextRequest 1 = some (cls hs0) ∧
    (asked sole 1 (cls hs0)).soleExclusive [30] 30 way3 ⟨key3, [30], [], [], 6, .valid 1⟩ 1 :=
  ⟨by decide, witness_soleExclusive (by decide)⟩

def evc : Instr := .evictSession 0 4 (sessionHandle 1 0)
theorem witness_EvictSessionLapses :
    (rq evc twoClaims).nextRequest 0 = some evc ∧ (rq evc twoClaims).namesOpen 2 (sessionHandle 1 0) 1 (openOn 2 [31]) := by
  unfold State.namesOpen; decide
theorem witness_EvictSessionLapses_only (st : ClaimState) (h : st = .held .exclusive ∨ st = .waiting .shared noLimit ∨
      st = .converting .update .exclusive noLimit) :
    let s := rq (.evictSession 0 4 hs0) (held base [(30, 0, st, some 6)])
    s.nextRequest 0 = some (.evictSession 0 4 hs0) ∧ s.namesOpen 1 hs0 0 (openOn 1 [30]) ∧
    s.claimAt 30 = some (claim30 st (some 6)) ∧ (s.way way3).wayState = .active := by
  unfold State.namesOpen
  rcases h with rfl | rfl | rfl <;> decide

/-- The fields of a session of channel 1 whose deadline is due, and `s` with session 0 so. -/
def overdue (claims : List Nat) : OpenSession := ⟨1, 50, ⟨90, true⟩, true, claims⟩
def late (s : State) (claims : List Nat) : State := s.setSession 0 ⟨5, .opened (overdue claims)⟩

theorem witness_KeepaliveExpiryLapses :
    (((late (held base [(30, 0, .held .exclusive, some 6)]) [30]).session 0).state = .opened (overdue [30]) ∧
      (late (held base [(30, 0, .held .exclusive, some 6)]) [30]).claimAt 30 = some (claim30 (.held .exclusive) (some 6)) ∧
      (late (held base [(30, 0, .held .exclusive, some 6)]) [30]).way way3 =
        .active ⟨key3, [30], [], [], 6, .valid 1⟩) ∧
    (base.session 1).state = .opened (openOn 2 []) ∧ (openOn 2 []).deadline.due = false := by decide
theorem witness_KeepaliveExpiryLapses_sole : (late sole [30]).soleExclusive [30] 30 way3 ⟨key3, [30], [], [], 6, .valid 1⟩ 1 :=
  witness_soleExclusive (by decide)
theorem witness_KeepaliveExpiryLapses_only (st : ClaimState) (h : st = .held .exclusive ∨ st = .waiting .shared noLimit ∨
      st = .converting .update .exclusive noLimit) :
    let s := late (held base [(30, 0, st, some 6)]) [30]
    (s.session 0).state = .opened (overdue [30]) ∧ (overdue [30]).claims = [30] ∧
    s.claimAt 30 = some (claim30 st (some 6)) ∧ (s.way way3).wayState = .active := by
  rcases h with rfl | rfl | rfl <;> decide

theorem witness_SessionLapsedNotice :
    (((late base []).session 0).state = .opened (overdue []) ∧ ((late base []).chan 1).state = .active ∧
      ((late base []).chan 1).notices = [] ∧ 1 ≤ ((late base []).chan 1).unreserved) ∧
    (((late (withChan base 1 ({ · with owed := 15 })) []).session 0).state = .opened (overdue []) ∧
      ((late (withChan base 1 ({ · with owed := 15 })) []).chan 1).state = .active ∧
      ((late (withChan base 1 ({ · with owed := 15 })) []).chan 1).unreserved = 0) ∧
    ((late (withChan base 1 ({ · with state := .faulted })) []).session 0).state = .opened (overdue []) ∧
      ((late (withChan base 1 ({ · with state := .faulted })) []).chan 1).state ≠ .active := by decide

/-- An ACQUIRE in mode `m` from session 0, whose claim list is `[]`, passes its checks in `s`. -/
theorem passes {s : State} {m : Mode} (hn : s.namesOpen 1 hs0 0 (openOn 1 []))
    (ha : (s.chan 1).access.get 3 = .full) (hq : s.claimCount 1 < (s.chan 1).claimLimit) (hf : s.freeClaims ≠ 0)
    (hx : s.nextSerial ≠ none) : s.AcquirePasses 1 hs0 0 (openOn 1 []) key3 m :=
  ⟨by decide, hn, ha, nofun, hq, hf, fun _ => hx⟩

/-- `s` passes the conditions of `passes`. -/
theorem passes_asked {s : State} {m : Mode} (h : ((s.session 0 = ⟨5, .opened (openOn 1 [])⟩ ∧
    (s.chan 1).access.get 3 = .full) ∧ s.claimCount 1 < (s.chan 1).claimLimit) ∧ s.freeClaims ≠ 0 ∧ s.nextSerial ≠ none) :
    s.AcquirePasses 1 hs0 0 (openOn 1 []) key3 m :=
  passes ⟨by decide, by rw [h.1.1.1]; decide, by decide, by rw [h.1.1.1], rfl⟩ h.1.1.2 h.1.2 h.2.1 h.2.2

/-- A bucket of key3 with the four given ways and dormant order. -/
def bucket3 (a b c d : Way) (order : List Nat) : State :=
  ((((base.setWay (way3 - 1) a).setWay way3 b).setWay (way3 + 1) c).setWay (way3 + 2) d).setDormant key3.bucket order
def other (n : Name) : Entry := ⟨⟨3, n⟩, [40], [], [], 0, .absent⟩
def still (n : Name) : Entry := ⟨⟨3, n⟩, [], [], [], 2, .valid 9⟩

theorem witness_AcquireCreates :
    let s := asked (bucket3 (.active (other 1)) .free .free (.active (other 2)) []) 1 (acq .exclusive 0)
    let s' := asked (bucket3 (.active (other 1)) (.dormant (still 3)) (.dormant (still 4)) (.active (other 2))
      [way3 + 1, way3]) 1 (acq .shared 9)
    (s.nextRequest 1 = some (acq .exclusive 0) ∧ s.AcquirePasses 1 hs0 0 (openOn 1 []) key3 .exclusive ∧
      (∀ w ∈ bucketWays key3.bucket, s.holdsKey key3 w = false) ∧ s.way way3 = .free ∧
      ∀ w ∈ bucketWays key3.bucket, w < way3 → s.way w ≠ .free) ∧
    s'.nextRequest 1 = some (acq .shared 9) ∧ s'.AcquirePasses 1 hs0 0 (openOn 1 []) key3 .shared ∧
      (∀ w ∈ bucketWays key3.bucket, s'.holdsKey key3 w = false ∧ s'.way w ≠ .free) ∧
      s'.dormantOrder key3.bucket = [way3 + 1, way3] ∧ bucketOf (way3 + 1) = key3.bucket := by
  refine ⟨⟨by decide, passes_asked (by decide), by decide, by decide, by decide⟩, by decide, passes_asked (by decide),
    by decide, by decide, by decide⟩

theorem witness_AcquireGrantsAtEntry :
    let s := asked (held base [(31, 1, .held .update, none)]) 1 (acq .shared 0)
    let s' := asked (bucket3 .free (.dormant ⟨key3, [], [], [], 3, .invalid 5⟩) .free .free [way3]) 1 (acq .exclusive 0)
    (s.nextRequest 1 = some (acq .shared 0) ∧ s.AcquirePasses 1 hs0 0 (openOn 1 []) key3 .shared ∧
      s.lookup key3 = some way3 ∧ s.way way3 = .active ⟨key3, [31], [], [], 6, .valid 1⟩ ∧
      ∀ c ∈ [31], ∀ x, s.heldMode c = some x → x.compatible .shared = true) ∧
    s'.nextRequest 1 = some (acq .exclusive 0) ∧ s'.AcquirePasses 1 hs0 0 (openOn 1 []) key3 .exclusive ∧
      s'.lookup key3 = some way3 ∧ s'.way way3 = .dormant ⟨key3, [], [], [], 3, .invalid 5⟩ := by
  refine ⟨⟨by decide, passes_asked (by decide), by decide, by decide, by decide⟩, by decide, passes_asked (by decide),
    by decide, by decide⟩

/-- Session 1 holds a lock on key3 in S, and session 0 asks for X with a wait limit. -/
def blocked (limit : BitVec 16) : State := asked (held base [(31, 1, .held .shared, none)]) 1 (acq .exclusive limit)
theorem witness_AcquireNotGrantable_refused : (blocked 0).nextRequest 1 = some (acq .exclusive 0) ∧
    (blocked 0).AcquirePasses 1 hs0 0 (openOn 1 []) key3 .exclusive ∧ (blocked 0).lookup key3 = some way3 ∧
    (blocked 0).way way3 = .active ⟨key3, [31], [], [], 6, .valid 1⟩ ∧ (blocked 0).heldMode 31 = some .shared ∧
    Mode.shared.compatible .exclusive = false :=
  ⟨by decide, passes_asked (by decide), by decide⟩
theorem witness_AcquireNotGrantable_waits : (blocked 65535).nextRequest 1 = some (acq .exclusive 65535) ∧
    (blocked 65535).AcquirePasses 1 hs0 0 (openOn 1 []) key3 .exclusive ∧ (blocked 65535).lookup key3 = some way3 ∧
    (blocked 65535).way way3 = .active ⟨key3, [31], [], [], 6, .valid 1⟩ ∧ (blocked 65535).heldMode 31 = some .shared :=
  ⟨by decide, passes_asked (by decide), by decide⟩

/-- `s` as the ACQUIRE of key3 in X by session 0, next to be taken. -/
def wantX (s : State) : State := asked s 1 (acq .exclusive 0)

theorem witness_AcquireRefused_notPermitted :
    let s := wantX (withChan base 1 fun c => { c with access := c.access.set 3 .check })
    s.nextRequest 1 = some (acq .exclusive 0) ∧ s.namesOpen 1 hs0 0 (openOn 1 []) ∧ (s.chan 1).access.get 3 ≠ .full := by
  unfold State.namesOpen; decide

theorem witness_AcquireRefused_alreadyClaimed :
    let s := wantX (held base [(30, 0, .held .shared, none)])
    s.nextRequest 1 = some (acq .exclusive 0) ∧ s.namesOpen 1 hs0 0 (openOn 1 [30]) ∧ (s.chan 1).access.get 3 = .full ∧
    s.claimAt 30 = some (claim30 (.held .shared)) ∧ (s.entry way3).key = key3 := by unfold State.namesOpen; decide

theorem witness_AcquireRefused_quota :
    let s := wantX (withChan base 1 ({ · with claimLimit := 0 }))
    s.nextRequest 1 = some (acq .exclusive 0) ∧ s.namesOpen 1 hs0 0 (openOn 1 []) ∧ (s.chan 1).access.get 3 = .full ∧
    (s.chan 1).claimLimit ≤ s.claimCount 1 := by unfold State.namesOpen; decide

/-- Every claim record in use, by session 1. -/
def taken : ClaimRec := ⟨0, some ⟨1, 0, .held .shared, none, false⟩⟩
def noClaims : State := wantX { base with claims := fullTable 32768 taken (by decide) }

theorem witness_AcquireRefused_noRecord :
    noClaims.nextRequest 1 = some (acq .exclusive 0) ∧ noClaims.namesOpen 1 hs0 0 (openOn 1 []) ∧
    (noClaims.chan 1).access.get 3 = .full ∧ noClaims.claimCount 1 < (noClaims.chan 1).claimLimit ∧
    noClaims.freeClaims = 0 := by
  refine ⟨by decide, by unfold State.namesOpen; decide, by decide, by decide, ?_⟩
  rw [State.freeClaims, show noClaims.claims = fullTable 32768 taken (by decide) from rfl, fullTable_count (by decide)]
  rfl

theorem witness_AcquireRefused_serialExhausted :
    let s := wantX { base with nextSerial := none }
    s.nextRequest 1 = some (acq .exclusive 0) ∧ s.namesOpen 1 hs0 0 (openOn 1 []) ∧ (s.chan 1).access.get 3 = .full ∧
    s.claimCount 1 < (s.chan 1).claimLimit ∧ s.freeClaims ≠ 0 ∧ s.nextSerial = none := by unfold State.namesOpen; decide

theorem witness_AcquireRefused_noSlot :
    let s := wantX (bucket3 (.active (other 1)) (.active (other 2)) (.active (other 3)) (.active (other 4)) [])
    s.nextRequest 1 = some (acq .exclusive 0) ∧ s.namesOpen 1 hs0 0 (openOn 1 []) ∧ (s.chan 1).access.get 3 = .full ∧
    s.claimCount 1 < (s.chan 1).claimLimit ∧ s.freeClaims ≠ 0 ∧ s.nextSerial ≠ none ∧
    (∀ w ∈ bucketWays key3.bucket, s.holdsKey key3 w = false ∧ (s.way w).wayState = .active) ∧
    s.dormantOrder key3.bucket = [] := by unfold State.namesOpen; decide

/-- CONVERT of the claim in record 30 in `s`, next to be taken. -/
def conv (s : State) (m : Mode) (present invalidate : Bool) (limit : BitVec 16) : State :=
  asked s 1 (cv m present invalidate limit)

theorem witness_ConvertDowngrades_fromX :
    let s := conv (held base [(30, 0, .held .exclusive, some 6), (31, 1, .waiting .shared noLimit, none)])
      .update false true 0
    s.nextRequest 1 = some (cv .update false true 0) ∧
    s.namesClaim 1 h30 30 (claim30 (.held .exclusive) (some 6)) (openOn 1 [30]) ∧
    s.way way3 = .active ⟨key3, [30], [], [31], 6, .valid 1⟩ := by unfold State.namesClaim; decide
theorem witness_ConvertDowngrades_fromU :
    let s := conv (held base [(30, 0, .held .update, none)]) .shared false false 9
    s.nextRequest 1 = some (cv .shared false false 9) ∧ s.namesClaim 1 h30 30 (claim30 (.held .update)) (openOn 1 [30]) ∧
    s.way way3 = .active ⟨key3, [30], [], [], 6, .valid 1⟩ := by unfold State.namesClaim; decide

theorem witness_ConvertUpgrades_granted :
    let s := conv (held base [(31, 1, .held .shared, none), (30, 0, .held .shared, none)]) .update false false 9
    s.nextRequest 1 = some (cv .update false false 9) ∧ s.namesClaim 1 h30 30 (claim30 (.held .shared)) (openOn 1 [30]) ∧
    s.way way3 = .active ⟨key3, [31, 30], [], [], 6, .valid 1⟩ ∧ (s.chan 1).access.get 3 = .full ∧
    (∀ d ∈ [31, 30], d ≠ 30 → ∀ x, s.heldMode d = some x → x.compatible .update = true) := by
  unfold State.namesClaim; decide
/-- Session 0 holds U beside a holder of S, and asks for X. -/
def upgrade (limit : BitVec 16) : State :=
  conv (held base [(30, 0, .held .update, some 3), (31, 1, .held .shared, none)]) .exclusive false false limit
theorem witness_ConvertUpgrades_blocked (limit : BitVec 16) (h : limit = 0 ∨ limit = 65535) : let s := upgrade limit
    s.nextRequest 1 = some (cv .exclusive false false limit) ∧
    s.namesClaim 1 h30 30 (claim30 (.held .update) (some 3)) (openOn 1 [30]) ∧
    s.way way3 = .active ⟨key3, [30, 31], [], [], 6, .valid 1⟩ ∧ (s.chan 1).access.get 3 = .full ∧ s.nextSerial ≠ none ∧
    s.heldMode 31 = some .shared ∧ Mode.shared.compatible .exclusive = false := by
  unfold State.namesClaim
  rcases h with rfl | rfl <;> decide

theorem witness_ConvertFailsPendingUpgrade (limit : BitVec 16) (h : limit = 0 ∨ limit = 9) :
    let s := conv (held base [(30, 0, .held .update, some 3), (31, 1, .converting .shared .update noLimit, none)])
      .exclusive false false limit
    s.nextRequest 1 = some (cv .exclusive false false limit) ∧
    s.namesClaim 1 h30 30 (claim30 (.held .update) (some 3)) (openOn 1 [30]) ∧
    s.way way3 = .active ⟨key3, [30, 31], [31], [], 6, .valid 1⟩ ∧ (s.chan 1).access.get 3 = .full ∧ s.nextSerial ≠ none ∧
    s.claimAt 31 = some ⟨1, way3, .converting .shared .update noLimit, none, false⟩ := by
  unfold State.namesClaim
  rcases h with rfl | rfl <;> decide

theorem witness_ConvertRefused_notPermitted :
    let s := conv (withChan (held base [(30, 0, .held .shared, none)]) 1 fun c => { c with access := c.access.set 3 .check })
      .update false false 0
    s.nextRequest 1 = some (cv .update false false 0) ∧ s.namesClaim 1 h30 30 (claim30 (.held .shared)) (openOn 1 [30]) ∧
    Mode.shared.rank < Mode.update.rank ∧ (s.chan 1).access.get (s.entry way3).key.domain.toNat ≠ .full := by
  unfold State.namesClaim; decide
/-- A CONVERT of the claim in record 30 in state `st`, beside `rest`, with FULL access. -/
def refusable (st : ClaimState) (rest : List (Nat × Nat × ClaimState × Option Serial)) (c : Instr) (s : State := base) :
    State := asked (held s ((30, 0, st, none) :: rest)) 1 c
theorem witness_ConvertRefused_rest :
    let waiting := refusable (.waiting .shared noLimit) [] (cv .update false false 0)
    let same := refusable (.held .update) [] (cv .update false false 0)
    let flagged := refusable (.held .update) [] (cv .shared true false 0)
    let exhausted := refusable (.held .update) [] (cv .exclusive false false 0) { base with nextSerial := none }
    let crossed := refusable (.held .shared) [(31, 1, .converting .update .exclusive noLimit, none)] (cv .update false false 0)
    (waiting.nextRequest 1 = some (cv .update false false 0) ∧
      waiting.namesClaim 1 h30 30 (claim30 (.waiting .shared noLimit)) (openOn 1 [30])) ∧
    (same.nextRequest 1 = some (cv .update false false 0) ∧
      same.namesClaim 1 h30 30 (claim30 (.held .update)) (openOn 1 [30])) ∧
    (flagged.nextRequest 1 = some (cv .shared true false 0) ∧
      flagged.namesClaim 1 h30 30 (claim30 (.held .update)) (openOn 1 [30])) ∧
    (exhausted.nextRequest 1 = some (cv .exclusive false false 0) ∧ exhausted.nextSerial = none ∧
      exhausted.namesClaim 1 h30 30 (claim30 (.held .update)) (openOn 1 [30])) ∧
    crossed.nextRequest 1 = some (cv .update false false 0) ∧
      crossed.namesClaim 1 h30 30 (claim30 (.held .shared)) (openOn 1 [30]) ∧
      (crossed.entry way3).converts = [31] ∧ crossed.wantedMode 31 = some .exclusive := by
  unfold State.namesClaim; decide

theorem witness_ReleaseFreesOrRefused :
    let fromX := asked (held base [(30, 0, .held .exclusive, some 6)]) 1 (rel true false)
    let fromS := refusable (.held .shared) [] (rel false false)
    let converting := refusable (.converting .shared .update noLimit) [(31, 1, .held .update, none)] (rel false false)
    let waiting := refusable (.waiting .shared noLimit) [] (rel false false)
    let flagged := refusable (.held .update) [] (rel true false)
    (fromX.nextRequest 1 = some (rel true false) ∧ fromX.way way3 = .active ⟨key3, [30], [], [], 6, .valid 1⟩ ∧
      fromX.namesClaim 1 h30 30 (claim30 (.held .exclusive) (some 6)) (openOn 1 [30])) ∧
    (fromS.nextRequest 1 = some (rel false false) ∧ fromS.way way3 = .active ⟨key3, [30], [], [], 6, .valid 1⟩ ∧
      fromS.namesClaim 1 h30 30 (claim30 (.held .shared)) (openOn 1 [30])) ∧
    (converting.nextRequest 1 = some (rel false false) ∧
      converting.way way3 = .active ⟨key3, [30, 31], [30], [], 6, .valid 1⟩ ∧
      converting.namesClaim 1 h30 30 (claim30 (.converting .shared .update noLimit)) (openOn 1 [30])) ∧
    (waiting.nextRequest 1 = some (rel false false) ∧
      waiting.namesClaim 1 h30 30 (claim30 (.waiting .shared noLimit)) (openOn 1 [30])) ∧
    flagged.nextRequest 1 = some (rel true false) ∧
      flagged.namesClaim 1 h30 30 (claim30 (.held .update)) (openOn 1 [30]) := by unfold State.namesClaim; decide

theorem witness_CancelEndsWait :
    let waiting := asked (held base [(31, 1, .held .exclusive, some 6), (30, 0, .waiting .shared noLimit, none)]) 1 can
    let converting := refusable (.converting .update .exclusive noLimit) [(31, 1, .held .shared, none)] can
    (waiting.nextRequest 1 = some can ∧ waiting.namesOpen 1 hs0 0 (openOn 1 [30]) ∧ waiting.lookup key3 = some way3 ∧
      waiting.way way3 = .active ⟨key3, [31], [], [30], 6, .valid 1⟩ ∧
      waiting.claimAt 30 = some (claim30 (.waiting .shared noLimit)) ∧
      ∀ d ∈ [31, 30], d ≠ 30 → ∀ x, waiting.claimAt d = some x → x.session ≠ 0) ∧
    converting.nextRequest 1 = some can ∧ converting.namesOpen 1 hs0 0 (openOn 1 [30]) ∧
      converting.lookup key3 = some way3 ∧ converting.way way3 = .active ⟨key3, [30, 31], [30], [], 6, .valid 1⟩ ∧
      converting.claimAt 30 = some (claim30 (.converting .update .exclusive noLimit)) ∧
      ∀ d ∈ [30, 31], d ≠ 30 → ∀ x, converting.claimAt d = some x → x.session ≠ 0 := by unfold State.namesOpen; decide
theorem witness_CancelEndsWait_refused :
    let absent := asked base 1 can
    let others := asked (held base [(31, 1, .held .exclusive, some 6)]) 1 can
    let holding := refusable (.held .shared) [] can
    (absent.nextRequest 1 = some can ∧ absent.namesOpen 1 hs0 0 (openOn 1 []) ∧ absent.lookup key3 = none) ∧
    (others.nextRequest 1 = some can ∧ others.namesOpen 1 hs0 0 (openOn 1 []) ∧ others.lookup key3 = some way3 ∧
      ∀ d ∈ (others.entry way3).holders ++ (others.entry way3).waits, ∀ x, others.claimAt d = some x → x.session ≠ 0) ∧
    holding.nextRequest 1 = some can ∧ holding.namesOpen 1 hs0 0 (openOn 1 [30]) ∧ holding.lookup key3 = some way3 ∧
      (holding.entry way3).holders ++ (holding.entry way3).waits = [30] ∧
      holding.claimAt 30 = some (claim30 (.held .shared)) := by unfold State.namesOpen; decide

/-- CHECK_FENCE of serial `n` in `s`, next to be taken. -/
def fenced (s : State) (h : SessionHandle) (n : Serial) : State := asked s 1 (fence h n)
theorem witness_CheckFenceVerdict_noEntry :
    let denied := fenced (withChan base 1 fun c => { c with access := c.access.set 3 .none }) noSession 6
    let absent := fenced base hs0 6
    let dormant := fenced (bucket3 .free (.dormant ⟨key3, [], [], [], 3, .valid 5⟩) .free .free [way3]) noSession 3
    (denied.nextRequest 1 = some (fence noSession 6) ∧ (denied.chan 1).access.get 3 = .none) ∧
    (absent.nextRequest 1 = some (fence hs0 6) ∧ absent.namesOpen 1 hs0 0 (openOn 1 []) ∧
      (absent.chan 1).access.get 3 ≠ .none ∧ ∀ w ∈ bucketWays key3.bucket, absent.holdsKey key3 w = false) ∧
    dormant.nextRequest 1 = some (fence noSession 3) ∧ (dormant.chan 1).access.get 3 ≠ .none ∧
      dormant.lookup key3 = some way3 ∧ dormant.way way3 = .dormant ⟨key3, [], [], [], 3, .valid 5⟩ := by
  unfold State.namesOpen; decide
theorem witness_CheckFenceVerdict_active :
    let shared := fenced (held base [(30, 0, .held .shared, none)]) noSession 6
    let same := fenced (held base [(30, 0, .held .exclusive, some 6)]) noSession 6
    let past := fenced (held base [(30, 0, .held .exclusive, some 6)]) hs0 5
    (shared.nextRequest 1 = some (fence noSession 6) ∧ shared.lookup key3 = some way3 ∧
      shared.way way3 = .active ⟨key3, [30], [], [], 6, .valid 1⟩ ∧ shared.heldMode 30 ≠ some .exclusive) ∧
    (same.nextRequest 1 = some (fence noSession 6) ∧ same.lookup key3 = some way3 ∧
      same.way way3 = .active ⟨key3, [30], [], [], 6, .valid 1⟩ ∧
      same.claimAt 30 = some (claim30 (.held .exclusive) (some 6))) ∧
    past.nextRequest 1 = some (fence hs0 5) ∧ past.namesOpen 1 hs0 0 (openOn 1 [30]) ∧ past.lookup key3 = some way3 ∧
      past.claimAt 30 = some (claim30 (.held .exclusive) (some 6)) := by unfold State.namesOpen; decide

theorem witness_WrongKindOrRangeRefused :
    let misplaced : Instr := .setTick 1 4 10
    let outOfRange : Instr := .setTick 0 4 9
    let unknown : Instr := .unknownKindRequest 1 4 0xFFFF
    ((asked base 1 misplaced).nextRequest 1 = some misplaced ∧ misplaced.isManagementRequest = true) ∧
    ((rq outOfRange).nextRequest 0 = some outOfRange ∧ outOfRange.isManagementRequest = true ∧ outOfRange.inRange = false) ∧
    (asked base 1 unknown).nextRequest 1 = some unknown ∧ unknown.isClientRequest = false ∧
      unknown.isManagementRequest = false := by decide

theorem witness_BadHandleRefused :
    let stale := asked base 1 (.keepalive 1 7 (sessionHandle 0 4))
    let lapsed := asked base 1 (.keepalive 1 7 (sessionHandle 2 3))
    let evicted := rq (.evictSession 0 4 (sessionHandle 2 3))
    let loose := asked base 1 (rel false false)
    (stale.nextRequest 1 = some (.keepalive 1 7 (sessionHandle 0 4)) ∧
      ((stale.session (sessionIndex (sessionHandle 0 4))).tag ≠ sessionTag (sessionHandle 0 4))) ∧
    (lapsed.nextRequest 1 = some (.keepalive 1 7 (sessionHandle 2 3)) ∧ sessionHandle 2 3 ≠ noSession ∧
      sessionIndex (sessionHandle 2 3) = 2 ∧ sessionTag (sessionHandle 2 3) = 3 ∧
      lapsed.session 2 = ⟨3, .lapsed ⟨1, .expired, false⟩⟩) ∧
    (evicted.nextRequest 0 = some (.evictSession 0 4 (sessionHandle 2 3)) ∧
      evicted.session 2 = ⟨3, .lapsed ⟨1, .expired, false⟩⟩) ∧
    loose.nextRequest 1 = some (rel false false) ∧ loose.claimAt (claimIndex h30) = none := by decide

/-! The end of an event at `way3`. -/

theorem witness_PassGrantsNothing :
    let empty (v : ValueBlock) := held base [] v
    let kept := held base [(30, 0, .held .shared, none)]
    let told := (held base [(31, 1, .held .shared, none), (30, 0, .waiting .exclusive noLimit, none)]).setClaim 31
      ⟨9, some ⟨1, way3, .held .shared, none, true⟩⟩
    ((empty .absent).way way3 = .active ⟨key3, [], [], [], 6, .absent⟩ ∧
      (empty (.valid 1)).way way3 = .active ⟨key3, [], [], [], 6, .valid 1⟩) ∧
    kept.way way3 = .active ⟨key3, [30], [], [], 6, .valid 1⟩ ∧
    told.way way3 = .active ⟨key3, [31], [], [30], 6, .valid 1⟩ ∧ told.wantedMode 30 = some .exclusive ∧
      told.nextSerial ≠ none ∧ told.heldMode 31 = some .shared ∧
      ∀ d ∈ [31], ∀ b, told.claimAt d = some b → b.noticed = true := by decide

/-- Session 1 holds S, and session 0 waits for a mode. -/
def waitBeside (m : Mode) (s : State := base) : State :=
  held s [(31, 1, .held .shared, none), (30, 0, .waiting m dueWait, none)]
theorem witness_PassServesWaiter :
    let granted := waitBeside .shared
    let fails := waitBeside .exclusive { base with nextSerial := none }
    (granted.way way3 = .active ⟨key3, [31], [], [30], 6, .valid 1⟩ ∧
      granted.claimAt 30 = some (claim30 (.waiting .shared dueWait)) ∧ (granted.session 0).state = .opened (openOn 1 [30]) ∧
      ∀ d ∈ [31], ∀ x, granted.heldMode d = some x → x.compatible .shared = true) ∧
    fails.way way3 = .active ⟨key3, [31], [], [30], 6, .valid 1⟩ ∧
      fails.claimAt 30 = some (claim30 (.waiting .exclusive dueWait)) ∧ fails.nextSerial = none ∧
      (fails.session 0).state = .opened (openOn 1 [30]) := by decide
theorem witness_PassServesWaiter_last :
    lastSerial.way way3 = .active ⟨key3, [], [], [30, 31], 6, .valid 1⟩ ∧ lastSerial.nextSerial = some 0xFFFFFFFFFFFF ∧
    lastSerial.claimAt 30 = some (claim30 (.waiting .exclusive noLimit)) ∧
    lastSerial.claimAt 31 = some ⟨1, way3, .waiting .exclusive noLimit, none, false⟩ ∧
    (lastSerial.session 0).state = .opened { openOn 1 [30] with notices := false } ∧
    (lastSerial.session 1).state = .opened (openOn 2 [31]) := by decide

theorem witness_PassServesConversion :
    let granted := held base [(31, 1, .held .shared, none), (30, 0, .converting .shared .update noLimit, none)]
    let fails := held { base with nextSerial := none } [(30, 0, .converting .update .exclusive noLimit, some 4)]
    (granted.way way3 = .active ⟨key3, [31, 30], [30], [], 6, .valid 1⟩ ∧
      granted.claimAt 30 = some (claim30 (.converting .shared .update noLimit)) ∧
      (granted.session 0).state = .opened (openOn 1 [30]) ∧
      ∀ d ∈ [31, 30], d ≠ 30 → ∀ y, granted.heldMode d = some y → y.compatible .update = true) ∧
    fails.way way3 = .active ⟨key3, [30], [30], [], 6, .valid 1⟩ ∧ fails.nextSerial = none ∧
      fails.claimAt 30 = some (claim30 (.converting .update .exclusive noLimit) (some 4)) ∧
      (fails.session 0).state = .opened (openOn 1 [30]) := by decide

theorem witness_PassTellsHolder :
    let free := waitBeside .exclusive
    let full := waitBeside .exclusive (withChan base 2 ({ · with owed := 15 }))
    (free.way way3 = .active ⟨key3, [31], [], [30], 6, .valid 1⟩ ∧
      (free.claimAt 30).map (·.state) = some (.waiting .exclusive dueWait) ∧
      free.claimAt 31 = some ⟨1, way3, .held .shared, none, false⟩ ∧ Mode.shared.compatible .exclusive = false ∧
      free.nextSerial ≠ none ∧ (free.session 1).state = .opened (openOn 2 [31]) ∧ (openOn 2 [31]).notices = true ∧
      (free.chan 2).state = .active ∧ (free.chan 2).notices = [] ∧ 1 ≤ (free.chan 2).unreserved) ∧
    full.way way3 = .active ⟨key3, [31], [], [30], 6, .valid 1⟩ ∧ (full.chan 2).state = .active ∧
      (full.chan 2).unreserved = 0 := by decide
theorem witness_PassTellsHolder_convert :
    let s := held base [(30, 0, .converting .update .exclusive noLimit, none), (31, 1, .held .shared, none)]
    s.way way3 = .active ⟨key3, [30, 31], [30], [], 6, .valid 1⟩ ∧
    (s.claimAt 30).map (·.state) = some (.converting .update .exclusive noLimit) ∧
    s.claimAt 31 = some ⟨1, way3, .held .shared, none, false⟩ ∧ Mode.shared.compatible .exclusive = false ∧
    s.nextSerial ≠ none ∧ (s.session 1).state = .opened (openOn 2 [31]) ∧ (openOn 2 [31]).notices = true ∧
    (s.chan 2).state = .active := by decide

/-! Management requests. -/

def setup (target vector : BitVec 8) (sessions claims reqSize rplSize : BitVec 16) : Instr :=
  .setupChannel 0 4 target vector sessions claims 64 128 reqSize rplSize
theorem witness_SetupChannelActivates :
    (setup 15 15 512 32768 16 4096).inRange = true ∧
    (rq (setup 15 15 512 32768 16 4096)).nextRequest 0 = some (setup 15 15 512 32768 16 4096) ∧
    ((rq (setup 15 15 512 32768 16 4096)).chan 15).state = .off := by decide

def tdn (target : BitVec 8) : Instr := .teardownChannel 0 4 target
def rst (target : BitVec 8) : Instr := .restartChannel 0 4 target
theorem witness_TargetStateRefused :
    let closing := rq (tdn 1) (withChan base 1 ({ · with state := .closing }))
    let inFlight := rq (rst 1) (withChan base 1 ({ · with state := .faulted, writes := [⟨0, 0⟩] }))
    (closing.nextRequest 0 = some (tdn 1) ∧ (tdn 1).inRange = true ∧ (closing.chan 1).state = .closing) ∧
    ((rq (setup 1 1 1 1 16 16)).nextRequest 0 = some (setup 1 1 1 1 16 16) ∧ (setup 1 1 1 1 16 16).inRange = true ∧
      (base.chan 1).state = .active) ∧
    ((rq (tdn 15)).nextRequest 0 = some (tdn 15) ∧ (base.chan 15).state = .off) ∧
    ((rq (rst 1)).nextRequest 0 = some (rst 1) ∧ (rst 1).inRange = true) ∧
    inFlight.nextRequest 0 = some (rst 1) ∧ (inFlight.chan 1).state = .faulted ∧ (inFlight.chan 1).writes ≠ [] := by decide

theorem witness_TeardownChannelFrees :
    let quiet := rq (tdn 1) twoClaims
    let busy := rq (tdn 1) (withChan twoClaims 1 ({ · with writes := [⟨0, 0⟩] }))
    targetInRange 1 = true ∧ (quiet.nextRequest 0 = some (tdn 1) ∧ (quiet.chan 1).state = .active ∧
      (quiet.chan 1).writes = [] ∧ (quiet.chan 1).fetch = .idle) ∧
    busy.nextRequest 0 = some (tdn 1) ∧ (busy.chan 1).state = .active ∧ (busy.chan 1).writes ≠ [] := by decide
theorem witness_TeardownChannelFrees_sole : (rq (tdn 1) sole).nextRequest 0 = some (tdn 1) ∧
    ((rq (tdn 1) sole).session 0).state = .opened (openOn 1 [30]) ∧
    (rq (tdn 1) sole).soleExclusive [30] 30 way3 ⟨key3, [30], [], [], 6, .valid 1⟩ 1 :=
  ⟨by decide, by decide, witness_soleExclusive (by decide)⟩

/-- Channel 1 FAULTED with nothing in flight. -/
def faulted1 (s : State := base) : State := withChan s 1 ({ · with state := .faulted, cause := .writeError, reqProd := 3 })
theorem witness_RestartChannelRestarts :
    let calm := rq (rst 1) (faulted1)
    let blocks := rq (rst 1) (faulted1 (held base
      [(30, 0, .held .shared, none), (31, 1, .waiting .exclusive noLimit, none)]))
    (calm.nextRequest 0 = some (rst 1) ∧ (calm.chan 1).state = .faulted ∧ (calm.chan 1).writes = [] ∧
      (calm.chan 1).fetch = .idle ∧ calm.claimsOf 1 = []) ∧
    blocks.nextRequest 0 = some (rst 1) ∧ (blocks.chan 1).state = .faulted ∧ (blocks.chan 1).writes = [] ∧
      (blocks.chan 1).fetch = .idle ∧ blocks.claimsOf 1 = [30] ∧ blocks.claimAt 30 = some (claim30 (.held .shared)) ∧
      2 ≤ (blocks.chan 1).rplSize ∧ (blocks.session 0).state = .opened (openOn 1 [30]) ∧
      (blocks.entry way3).blockingHead = some (31, .wait) ∧ blocks.wantedMode 31 = some .exclusive ∧
      Mode.shared.compatible .exclusive = false := by decide

def sac (target domain level : BitVec 8) : Instr := .setAccess 0 4 target domain level
theorem witness_SetAccessStores :
    ((rq (sac 1 15 2)).nextRequest 0 = some (sac 1 15 2) ∧ (2 : BitVec 8) = Level.full.code ∧ (base.chan 1).state = .active) ∧
    ((rq (sac 1 16 2)).nextRequest 0 = some (sac 1 16 2) ∧ 15 < (16 : BitVec 8).toNat) ∧
    ((rq (sac 1 0 3)).nextRequest 0 = some (sac 1 0 3) ∧ ∀ l ∈ [Level.none, .check, .full], (3 : BitVec 8) ≠ l.code) ∧
    ((rq (sac 15 0 0)).nextRequest 0 = some (sac 15 0 0) ∧ (base.chan 15).state = .off) ∧
    (rq (sac 1 0 0) (withChan base 1 ({ · with state := .closing }))).nextRequest 0 = some (sac 1 0 0) := by decide

def lim (sessions claims : BitVec 16) : Instr := .setLimits 0 4 1 sessions claims
def stk (period : BitVec 32) : Instr := .setTick 0 4 period
theorem witness_SetLimitsAndTickStore :
    ((rq (lim 512 32768)).nextRequest 0 = some (lim 512 32768) ∧ (rq (lim 512 32768)).sessionCount 1 ≤ 512 ∧
      (rq (lim 512 32768)).claimCount 1 ≤ 32768 ∧ (base.chan 1).state = .active) ∧
    ((rq (lim 2 0)).nextRequest 0 = some (lim 2 0) ∧ (rq (lim 2 0)).sessionCount 1 = 2 ∧ (rq (lim 2 0)).claimCount 1 = 0) ∧
    ((rq (lim 1 0)).nextRequest 0 = some (lim 1 0) ∧ 1 < (rq (lim 1 0)).sessionCount 1) ∧
    (rq (stk 10)).nextRequest 0 = some (stk 10) ∧ (rq (stk 1000000)).nextRequest 0 = some (stk 1000000) ∧
    (rq (stk 9)).nextRequest 0 = some (stk 9) ∧ (rq (stk 1000001)).nextRequest 0 = some (stk 1000001) := by decide

def dis : Instr := .discardResource 0 4 3 0x1234
def irs : Instr := .inspectResource 0 4 3 0x1234
/-- `key3` DORMANT in `way3`, the younger of two in its bucket. -/
def dormant3 : State := bucket3 .free (.dormant ⟨key3, [], [], [], 3, .valid 5⟩) (.dormant (still 4)) .free [way3 + 1, way3]
theorem witness_DiscardResourceFrees :
    ((rq dis dormant3).nextRequest 0 = some dis ∧ (rq dis dormant3).lookup key3 = some way3 ∧
      (rq dis dormant3).way way3 = .dormant ⟨key3, [], [], [], 3, .valid 5⟩) ∧
    ((rq dis twoClaims).nextRequest 0 = some dis ∧ (rq dis twoClaims).lookup key3 = some way3 ∧
      ((rq dis twoClaims).way way3).wayState = .active) ∧
    (rq dis).nextRequest 0 = some dis ∧ ∀ w ∈ bucketWays key3.bucket, (rq dis).holdsKey key3 w = false := by decide

def ise (h : SessionHandle) : Instr := .inspectSession 0 4 h
theorem witness_InspectionsReport :
    let exclusive := rq irs (held base [(30, 0, .held .exclusive, some 6)])
    ((rq irs).nextRequest 0 = some irs ∧ ∀ w ∈ bucketWays key3.bucket, (rq irs).holdsKey key3 w = false) ∧
    ((rq irs dormant3).lookup key3 = some way3 ∧ (rq irs dormant3).way way3 = .dormant ⟨key3, [], [], [], 3, .valid 5⟩) ∧
    (exclusive.nextRequest 0 = some irs ∧ exclusive.lookup key3 = some way3 ∧
      exclusive.way way3 = .active ⟨key3, [30], [], [], 6, .valid 1⟩ ∧
      exclusive.claimAt 30 = some (claim30 (.held .exclusive) (some 6))) ∧
    ((rq (ise hs0)).nextRequest 0 = some (ise (base.sessionHandle 0)) ∧ base.sessionHandle 0 ≠ noSession ∧
      ((rq (ise hs0)).session 0).state = .opened (openOn 1 [])) ∧
    (rq (ise (sessionHandle 2 3))).nextRequest 0 = some (ise (base.sessionHandle 2)) ∧
      (base.session 2).state = .lapsed ⟨1, .expired, false⟩ := by decide

theorem witness_InspectDeviceReports : (rq (.inspectDevice 0 4)).nextRequest 0 = some (.inspectDevice 0 4) := by decide

/-! Registers. -/

theorem witness_ReqProdStored : base.ready = true ∧ ((base.chan 1).state = .active ∧ 15 < (base.chan 1).reqSize) ∧
    ((faulted1).chan 1).state = .faulted ∧ (base.chan 15).state = .off := by decide

/-- Channel 1 with reply indices around the end of its ring: 14 consumed, 3 produced. -/
def wrapped (notices : List Notice) : State := withChan base 1 ({ · with rplProd := 3, rplCons := 14, notices := notices })
def lapseOf2 : Notice := .sessionLapsed 2 7 .expired 9 0
theorem witness_RplConsStored :
    let lapsing := (wrapped [lapseOf2]).setSession 2 ⟨3, .lapsed ⟨1, .expired, true⟩⟩
    (((wrapped []).chan 1).state = .active ∧ ((wrapped []).chan 1).mayConsume 3 ∧ ((wrapped []).chan 1).mayConsume 14 ∧
      ¬((wrapped []).chan 1).mayConsume 4 ∧ ¬((wrapped []).chan 1).mayConsume 16 ∧ ((wrapped []).chan 1).notices = []) ∧
    ((lapsing.chan 1).notices = [lapseOf2] ∧ (lapsing.chan 1).mayConsume 3 ∧
      1 ≤ ({ lapsing.chan 1 with rplCons := 3 } : Channel).unreserved ∧
      (lapsing.session 2).state = .lapsed ⟨1, .expired, true⟩) ∧
    ((faulted1).chan 1).state = .faulted ∧ (base.chan 15).state = .off := by unfold Channel.mayConsume; decide

/-- Channel 0 OFF, and FAULTED with nothing in flight, with the given vector and size registers. -/
def mgmtOff (vector : BitVec 32) : State := { base.setChan 0 Channel.reset with mgmt := ⟨64, 16, 128, 4096, vector⟩ }
def mgmtFaulted (size : BitVec 32) : State :=
  { withChan base 0 ({ · with state := .faulted, cause := .writeError }) with mgmt := ⟨64, size, 128, 4096, 15⟩ }
theorem witness_MgmtControlActs :
    ((mgmtOff 15).ready = true ∧ ((mgmtOff 15).chan 0).state = .off ∧ (mgmtOff 15).mgmt.accepted = true) ∧
    (mgmtOff 16).mgmt.accepted = false ∧
    (((mgmtFaulted 17).chan 0).state = .faulted ∧ ((mgmtFaulted 17).chan 0).writes = [] ∧
      ((mgmtFaulted 17).chan 0).fetch = .idle ∧ (mgmtFaulted 17).mgmt.accepted = false) ∧
    (mgmtFaulted 16).mgmt.accepted = true ∧ (base.chan 0).state = .active := by decide

theorem witness_RegistersStoredOrIgnored : State.reset.ready = false ∧ ((mgmtOff 0).ready = true ∧ ((mgmtOff 0).chan 0).state = .off) ∧
    base.ready = true ∧ (base.chan 0).state = .active := by decide

theorem witness_RegisterReads : ∀ offset ∈ [0x14, 0x28, 0xFFC, 0x1014, 0x1F14, 0x2000], offset % 4 = 0 ∧
    offset ∉ [0x00, 0x04, 0x08, 0x0C, 0x10, 0x18, 0x1C, 0x20, 0x24] ∧
    ∀ n < 16, offset ∉ [0x1000 + 0x100 * n, 0x1004 + 0x100 * n, 0x1008 + 0x100 * n, 0x100C + 0x100 * n, 0x1010 + 0x100 * n] := by
  decide

/-! Faults, time and the DMA. -/

/-- Every table in use: session 1 holds key3 in X, session 0 waits for it in S, its reply owed, and a TICK is next. -/
def live : State :=
  { withChan (held base [(31, 1, .held .exclusive, some 6), (30, 0, .waiting .shared noLimit, none)]) 1
    ({ · with owed := 1 }) with pending := [.tick] }

theorem live_ways : live.ways = Table.empty.set way3 (.active ⟨key3, [31], [], [30], 6, .valid 1⟩) := rfl
theorem live_claims : live.claims = (Table.empty.set 31 ⟨9, some ⟨1, way3, .held .exclusive, some 6, false⟩⟩).set 30
    ⟨9, some (claim30 (.waiting .shared noLimit))⟩ := rfl
theorem live_way (w : Nat) : live.way w = if w = way3 then .active ⟨key3, [31], [], [30], 6, .valid 1⟩ else .free := by
  rw [State.way, live_ways, Table.get_set]
  rfl
theorem live_claim (c : Nat) : live.claimAt c = if c = 30 then some (claim30 (.waiting .shared noLimit))
    else if c = 31 then some ⟨1, way3, .held .exclusive, some 6, false⟩ else none := by
  rw [State.claimAt, State.claim, live_claims, Table.get_set, Table.get_set]
  split_ifs <;> rfl

theorem live_entry (w : Nat) : live.entry w = ⟨key3, [31], [], [30], 6, .valid 1⟩ ∧ w = way3 ∨ live.entry w = Entry.blank := by
  rw [State.entry, live_way]
  split_ifs with h
  · exact .inl ⟨rfl, h⟩
  · exact .inr rfl

theorem witness_LeasesKeptByStep : LeasesKept live ∧ step live = .next (after (step live)) := by
  refine ⟨⟨?_, ?_, ?_, ?_, ?_, ?_⟩, rfl⟩
  · intro w c hc
    obtain ⟨h, rfl⟩ | h := live_entry w <;> rw [h] at hc <;> simp [Entry.blank] at hc
    subst hc
    exact ⟨_, rfl, rfl, by decide⟩
  · intro w c hc
    obtain ⟨h, rfl⟩ | h := live_entry w <;> rw [h] at hc <;> simp [Entry.blank] at hc
  · intro w c hc
    obtain ⟨h, rfl⟩ | h := live_entry w <;> rw [h] at hc <;> simp [Entry.blank] at hc
    subst hc
    exact ⟨_, rfl, rfl⟩
  · intro w e he
    rw [live_way] at he
    split_ifs at he
  · intro w c c' m m' hc hc'
    obtain ⟨h, rfl⟩ | h := live_entry w <;> rw [h] at hc hc' <;> simp [Entry.blank] at hc hc'
    subst hc hc'
    exact fun h => absurd rfl h
  · intro w c b hc hb
    obtain ⟨h, rfl⟩ | h := live_entry w <;> rw [h] at hc ⊢ <;> simp [Entry.blank] at hc
    subst hc
    rw [live_claim] at hb
    cases hb
    exact fun _ => rfl

theorem witness_ResourcesKeptByStep : ResourcesKept live ∧ step live = .next (after (step live)) := by
  refine ⟨⟨?_, ?_, ?_, fun _ => List.nodup_nil, ?_⟩, rfl⟩
  · intro w hw
    rw [live_way] at hw
    split_ifs at hw with h
    · subst h
      decide
    · exact absurd rfl hw
  · intro w w' hw hw' _
    rw [live_way] at hw hw'
    split_ifs at hw hw' with h h'
    · exact h.trans h'.symm
    all_goals exact absurd rfl ‹_›
  · intro b w
    refine ⟨nofun, fun h => ?_⟩
    have := h.2
    rw [live_way] at this
    split_ifs at this <;> cases this
  · intro w e he
    rw [live_way] at he
    split_ifs at he

theorem witness_SerialsKeptByStep : SerialsKept live ∧ step live = .next (after (step live)) := by
  refine ⟨⟨by decide, ?_, ?_, ?_⟩, rfl⟩
  · intro c b n hb hn m hm
    rw [live_claim] at hb
    cases hm
    split_ifs at hb <;> cases hb <;> cases hn
    decide
  · intro w m hm
    cases hm
    rw [State.entry, live_way]
    split_ifs <;> decide
  · intro c c' b b' n hb hb' hn hn'
    rw [live_claim] at hb hb'
    split_ifs at hb hb' with h h' h'' h''' <;> cases hb <;> cases hb' <;> cases hn <;> cases hn'
    exact (‹c = 31›).trans (‹c' = 31›).symm

theorem live_chan (n : Nat) : (n < 3 ∧ live.chan n = { chanOf n with owed := if n = 1 then 1 else 0 }) ∨
    (n ≠ 1 ∧ live.chan n = Channel.reset) := by
  rw [State.chan, show live.channels = (((Table.empty.set 0 (chanOf 0)).set 1 (chanOf 1)).set 2 (chanOf 2)).set 1
    { chanOf 1 with owed := 1 } from rfl, Table.get_set, Table.get_set, Table.get_set, Table.get_set]
  split_ifs with h1 h2 h0
  · exact .inl ⟨by omega, by rw [h1]⟩
  · exact .inl ⟨by omega, by rw [h2]; rfl⟩
  · exact .inl ⟨by omega, by rw [h0]; rfl⟩
  · exact .inr ⟨h1, rfl⟩

theorem live_session (i : Nat) : live.session i = if i = 0 then ⟨5, .opened (openOn 1 [30])⟩
    else if i = 1 then ⟨0, .opened (openOn 2 [31])⟩ else if i = 2 then ⟨3, .lapsed ⟨1, .expired, false⟩⟩
    else SessionRec.reset := by
  rw [State.session, show live.sessions = ((Table.empty.set 0 ⟨5, .opened (openOn 1 [30])⟩).set 1
    ⟨0, .opened (openOn 2 [31])⟩).set 2 ⟨3, .lapsed ⟨1, .expired, false⟩⟩ from rfl, Table.get_set, Table.get_set,
    Table.get_set]
  split_ifs <;> first | rfl | omega

theorem live_sessionsOf (n : Nat) : live.sessionsOf n = if n = 1 then [0, 2] else if n = 2 then [1] else [] := by
  rw [State.sessionsOf, show live.sessions.indices = [0, 1, 2] from rfl]
  simp only [live_session]
  rcases eq_or_ne n 1 with rfl | h1
  · decide
  rcases eq_or_ne n 2 with rfl | h2
  · decide
  simp [SessionRec.channel, openOn, h1, h2, h1.symm, h2.symm]

theorem live_quiet : ChannelsQuiet live := by
  refine ⟨?_, ?_, ?_, ?_⟩ <;> intro n <;> obtain ⟨-, h⟩ | ⟨-, h⟩ := live_chan n <;> rw [h]
  · nofun
  · exact fun _ => rfl
  · exact fun h => absurd rfl h
  · exact fun _ => rfl
  · exact fun h => absurd rfl h
  · exact fun _ => rfl
  · nofun
  · nofun

theorem live_rings : RingsKept live := by
  refine ⟨?_, ?_⟩ <;> intro n <;> obtain ⟨h3, h⟩ | ⟨-, h⟩ := live_chan n <;> rw [h]
  · intro _
    refine ⟨_, rfl, ?_⟩
    interval_cases n <;> decide
  · rintro (h | ⟨-, h⟩)
    · cases h
    · exact absurd rfl h
  · intro _
    unfold Channel.indicesInRange
    interval_cases n <;> decide
  · nofun

theorem live_counts : CountsKept live := by
  refine ⟨?_, ?_, ?_, by decide⟩ <;> intro n
  · rw [State.sessionCount, live_sessionsOf]
    rcases eq_or_ne n 1 with rfl | h1
    · decide
    rcases eq_or_ne n 2 with rfl | h2
    · decide
    simp [h1, h2]
  · rw [State.claimCount, State.claimsOf, live_sessionsOf]
    rcases eq_or_ne n 1 with rfl | h1
    · decide
    rcases eq_or_ne n 2 with rfl | h2
    · decide
    simp [h1, h2]
  · rw [State.sessionCount, live_sessionsOf]
    rcases eq_or_ne n 1 with rfl | h1
    · exact fun h => absurd h (by decide)
    rcases eq_or_ne n 2 with rfl | h2
    · exact fun h => absurd h (by decide)
    simp [h1, h2]

theorem witness_ChannelsKeptByStep :
    ChannelsQuiet live ∧ RingsKept live ∧ CountsKept live ∧ step live = .next (after (step live)) :=
  ⟨live_quiet, live_rings, live_counts, rfl⟩

theorem live_placed : ClaimsPlaced live := by
  refine ⟨?_, ?_, ?_, ?_, ?_, ?_, ?_, ?_⟩
  · intro c b hb
    rw [live_claim] at hb
    split_ifs at hb <;> cases hb <;> subst_vars
    · exact ⟨openOn 1 [30], by decide⟩
    · exact ⟨openOn 2 [31], by decide⟩
  · intro c b hb
    rw [live_claim] at hb
    split_ifs at hb <;> cases hb <;> subst_vars <;> exact ⟨⟨key3, [31], [], [30], 6, .valid 1⟩, by decide⟩
  · intro i o c h hc
    rw [live_session] at h
    split_ifs at h <;> cases h <;> subst_vars <;> rw [List.mem_singleton.mp hc] <;> exact ⟨_, rfl, rfl⟩
  · intro w c h
    obtain ⟨he, rfl⟩ | he := live_entry w <;> rw [he] at h
    · rcases h with h | h | h
      · rw [List.mem_singleton.mp h]
        exact ⟨_, rfl, rfl⟩
      · cases h
      · rw [List.mem_singleton.mp h]
        exact ⟨_, rfl, rfl⟩
    · rcases h with h | h | h <;> cases h
  · intro i o h
    rw [live_session] at h
    split_ifs at h <;> cases h <;> decide
  · intro w
    obtain ⟨he, -⟩ | he := live_entry w <;> rw [he] <;> decide
  · intro c c' b b' hb hb' hs
    rw [live_claim] at hb hb'
    split_ifs at hb hb' <;> cases hb <;> cases hb' <;> first | (intro; omega) | exact absurd hs (by decide)
  · intro c b hb
    rw [live_claim] at hb
    split_ifs at hb <;> cases hb <;> omega

theorem witness_ClaimsPlacedKeptByStep : ResourcesKept live ∧ ClaimsPlaced live ∧ step live = .next (after (step live)) :=
  ⟨witness_ResourcesKeptByStep.1, live_placed, rfl⟩

theorem live_reservations : ReservationsKept live := by
  refine ⟨?_, ?_, ?_, ?_⟩
  · intro n
    have hc : live.claims.cells = [(30, ⟨9, some (claim30 (.waiting .shared noLimit))⟩),
      (31, ⟨9, some ⟨1, way3, .held .exclusive, some 6, false⟩⟩)] := rfl
    obtain ⟨h3, h⟩ | ⟨h1, h⟩ := live_chan n
    · interval_cases n <;> rw [h] <;> rfl
    · have hs : ((some 1 : Option Nat) == some n) = false := by simpa using h1.symm
      have ht : live.teardownReplies.count (·.isSome) = 0 := rfl
      have h0 : (live.session 0).channel = some 1 := rfl
      rw [State.reserved, h, Table.count, hc, ht]
      simp [claim30, ClaimState.wait, h0, hs, Channel.reset]
  · intro n
    obtain ⟨h3, h⟩ | ⟨h1, h⟩ := live_chan n <;> rw [h]
    · interval_cases n <;> decide
    · nofun
  · intro i
    rw [live_session]
    split_ifs <;> decide
  · intro n h
    exact absurd rfl h

theorem witness_ReservationsKeptByStep : ClaimsPlaced live ∧ ChannelsQuiet live ∧ RingsKept live ∧ ReservationsKept live ∧
    step live = .next (after (step live)) := ⟨live_placed, live_quiet, live_rings, live_reservations, rfl⟩

theorem witness_HandlesAndPeriodsKeptByStep :
    HandlesKept live ∧ PeriodsKept live ∧ step live = .next (after (step live)) := by
  refine ⟨?_, ⟨by decide, by decide, nofun⟩, rfl⟩
  unfold HandlesKept
  decide

theorem witness_PassSettles : LeasesKept live ∧ ∀ c ∈ (live.entry way3).converts, c ∈ (live.entry way3).holders :=
  ⟨witness_LeasesKeptByStep.1, by decide⟩

theorem witness_ClientChannelFaults :
    (((1 : Fin 16) ≠ 0 ∧ (live.chan 1).state = .active ∧ live.faultEvent (.reqProdWrite 1 16) 1 .badReqIndex) ∧
      LeasesKept live) ∧
    ∀ cause : Cause, cause = .badRplIndex ∨ cause = .fetchError ∨ cause = .writeError →
      let s := withChan (base.setSession 1 SessionRec.reset) 2
        ({ · with fetch := .reading 2 3, owed := 3, writes := [⟨0, 0⟩, ⟨1, 1⟩] })
      (s.chan 2).state = .active ∧ s.sessionsOf 2 = [] ∧ ∃ c, s.faultEvent c 2 cause :=
  ⟨⟨⟨by decide, by decide, .inl ⟨16, rfl, by decide, by decide, rfl⟩⟩, witness_LeasesKeptByStep.1⟩, by
    rintro cause (rfl | rfl | rfl) <;> refine ⟨by decide, by decide, ?_⟩
    · exact ⟨.rplConsWrite 2 1, .inr (.inl ⟨1, rfl, by decide, by unfold Channel.mayConsume; decide, rfl⟩)⟩
    · exact ⟨.fetchError 2, .inr (.inr (.inl ⟨rfl, ⟨2, 3, by decide⟩, rfl⟩))⟩
    · exact ⟨.writeError 2, .inr (.inr (.inr ⟨rfl, by decide, rfl⟩))⟩⟩

theorem witness_ManagementChannelFaults :
    (base.chan 0).state = .active ∧ (base.chan 0).rings = some ⟨0, 16, 0x8000, 16, 0⟩ ∧
      base.faultEvent (.reqProdWrite 0 16) 0 .badReqIndex :=
  ⟨by decide, by decide, .inl ⟨16, rfl, by decide, by decide, rfl⟩⟩

theorem witness_TickAdvances :
    let s := held { base with now := 0xFFFFFFFF } [(30, 0, .waiting .shared dueWait, none), (31, 1, .held .exclusive, some 6)]
    s.ready = true ∧ (s.session 0).state = .opened (openOn 1 [30]) ∧
    s.claimAt 30 = some (claim30 (.waiting .shared ⟨8, some ⟨99, true⟩⟩)) := by decide

theorem witness_WaitExpiryEndsWait :
    let waits := held base [(31, 1, .held .exclusive, some 6), (30, 0, .waiting .shared dueWait, none)]
    let converts := held base [(30, 0, .converting .update .exclusive dueWait, none), (31, 1, .held .shared, none)]
    let early := held base [(31, 1, .held .exclusive, some 6), (30, 0, .waiting .shared ⟨8, some ⟨140, false⟩⟩, none)]
    (waits.claimAt 30 = some (claim30 (.waiting .shared ⟨8, some ⟨99, true⟩⟩)) ∧
      (waits.session 0).state = .opened (openOn 1 [30]) ∧
      waits.way way3 = .active ⟨key3, [31], [], [30], 6, .valid 1⟩) ∧
    (converts.claimAt 30 = some (claim30 (.converting .update .exclusive ⟨8, some ⟨99, true⟩⟩)) ∧
      (converts.session 0).state = .opened (openOn 1 [30]) ∧
      converts.way way3 = .active ⟨key3, [30, 31], [30], [], 6, .valid 1⟩) ∧
    early.claimAt 30 = some (claim30 (.waiting .shared ⟨8, some ⟨140, false⟩⟩)) := by decide

/-- Channels 0 and 1 ready to fetch, with channel `last` granted last. -/
def fetching (last : Nat) : State :=
  { withChan (withChan base 1 ({ · with reqProd := 1, reqCons := 14 })) 0 ({ · with reqProd := 1 }) with lastGranted := last }
theorem witness_FetchIssued : ∀ p ∈ [(1, 0), (0, 1), (0, 15)], let s := fetching p.2
    s.lastGranted < 16 ∧ (s.chan p.1).state = .active ∧ (s.chan p.1).fetch = .idle ∧ 1 ≤ (s.chan p.1).pendingCount ∧
    1 ≤ (s.chan p.1).unreserved ∧
    ∀ k < 16, (s.chan k).state = .active ∧ (s.chan k).fetch = .idle ∧ 1 ≤ (s.chan k).pendingCount ∧
      1 ≤ (s.chan k).unreserved → (p.1 + 15 - s.lastGranted) % 16 ≤ (k + 15 - s.lastGranted) % 16 := by decide
theorem witness_FetchIssued_none : ∀ n < 16, (base.chan n).pendingCount = 0 := by decide

theorem witness_CompletionsTaken_fetch :
    let s := withChan base 1 ({ · with reqProd := 1, reqCons := 14, fetch := .reading 14 3, owed := 3 })
    (s.chan 1).state = .active ∧ (s.chan 1).fetch = .reading 14 ([1, 2, 3] : List RingEntry).length ∧
    (base.chan 1).fetch = .idle := by decide

theorem witness_CompletionsTaken_write :
    let s := withChan base 1 ({ · with rplProd := 15, armed := true, writes := [⟨0, 0⟩, ⟨1, 1⟩] })
    (s.chan 1).state = .active ∧ (s.chan 1).writes = [⟨0, 0⟩, ⟨1, 1⟩] ∧
    (s.chan 1).rings = some ⟨0x10000, 16, 0x18000, 16, 1⟩ ∧ (base.chan 1).writes = [] := by decide

theorem witness_StoppedChannelDrains :
    let s (st : ChanState) := withChan base 1 ({ · with state := st, fetch := .reading 1 2, writes := [⟨0, 0⟩] })
    let drained := withChan base 1 ({ · with state := .closing })
    (((s .closing).chan 1).state = .closing ∧ ((s .faulted).chan 1).state = .faulted ∧
      ((s .closing).chan 1).fetch = .reading 1 ([1, 2] : List RingEntry).length ∧ ((s .closing).chan 1).writes = [⟨0, 0⟩]) ∧
    (drained.chan 1).state = .closing ∧ (drained.chan 1).fetch = .idle ∧ (drained.chan 1).writes = [] := by decide

theorem witness_ChannelTransitions :
    let s := { base with pending := [.reqProdWrite 1 16] }
    step s = .next (after (step s)) ∧ ((after (step s)).chan 1).state ≠ (s.chan 1).state := ⟨rfl, by decide⟩

theorem witness_TimeAndSerialsOnlyAdvance :
    live.pending = [.tick] ∧ step live = .next (after (step live)) := ⟨rfl, rfl⟩

theorem witness_SessionsIsolated :
    let s := { asked base 1 kpa with pending := [kpa] }
    step s = .next (after (step s)) ∧ ¬kpa.reaches s 1 ∧ (s.session 1).state = .opened (openOn 2 []) := by
  refine ⟨rfl, ?_, rfl⟩
  rintro (⟨ch, h, h' | h' | h'⟩ | ⟨j, h, -⟩)
  · subst h'
    cases h
  · exact absurd h' (by decide)
  · cases h
    exact absurd h' (by decide)
  · cases h

end Sys2Proof.Tests
end

section
/-! PROOFS. The bucket index (R2) and the values at a device reset (R151). -/

namespace Sys2Proof.Machine

/-! ### The bucket index (R2) -/

theorem Key.toNat_slice (k : Key) (i : Nat) :
    (k.slice i).toNat = (k.domain.toNat * 2 ^ 64 + k.name.toNat) / 2 ^ (12 * i) % 2 ^ 12 := by
  have hk : (0#4 ++ k.domain ++ k.name).toNat = k.domain.toNat * 2 ^ 64 + k.name.toNat := by
    rw [BitVec.toNat_append, ← Nat.shiftLeft_add_eq_or_of_lt k.name.isLt, Nat.shiftLeft_eq, BitVec.toNat_append]
    simp
  rw [Key.slice, BitVec.extractLsb'_toNat, hk, Nat.shiftRight_eq_div_pow]

/-- Bit `j` of slice `i` is bit `12 * i + j` of the domain above the name (R2). -/
theorem Key.getElem_slice (k : Key) (i : Nat) {j : Nat} (hj : j < 12) :
    (k.slice i)[j] = if 12 * i + j < 64 then k.name.getLsbD (12 * i + j) else k.domain.getLsbD (12 * i + j - 64) := by
  rw [Key.slice, BitVec.getElem_extractLsb', BitVec.getLsbD_append, BitVec.getLsbD_append]
  split_ifs
  · rfl
  · rfl
  · rw [BitVec.getLsbD_of_ge k.domain _ (by omega)]
    simp

/-- The slices below the last lie within the name (R2). -/
theorem Key.slice_of_name (d d' : BitVec 4) (n : Name) {i : Nat} (hi : i < 5) :
    Key.slice ⟨d, n⟩ i = Key.slice ⟨d', n⟩ i := by
  ext j hj
  rw [Key.getElem_slice, Key.getElem_slice, if_pos (by omega), if_pos (by omega)]

/-- The last slice holds the domain above the top four bits of the name (R2). -/
theorem Key.slice_five_xor (d d' : BitVec 4) (n : Name) :
    Key.slice ⟨d, n⟩ 5 ^^^ Key.slice ⟨d', n⟩ 5 = (d ^^^ d').setWidth 12 <<< 4 := by
  ext j hj
  rw [BitVec.getElem_xor, Key.getElem_slice, Key.getElem_slice]
  by_cases h : j < 4
  · simp [h, show 60 + j < 64 by omega]
  · simp [h, show ¬ 60 + j < 64 by omega, show 60 + j - 64 = j - 4 by omega]

theorem Key.bucket_xor_bucket (d d' : BitVec 4) (n : Name) :
    Key.bucket ⟨d, n⟩ ^^^ Key.bucket ⟨d', n⟩ = (d ^^^ d').toNat * 16 := by
  have hcancel : ∀ a x y : BitVec 12, a ^^^ x ^^^ (a ^^^ y) = x ^^^ y := fun a x y => by
    rw [BitVec.xor_comm a, BitVec.xor_assoc, ← BitVec.xor_assoc a, BitVec.xor_self, BitVec.zero_xor]
  have hlt := (d ^^^ d').isLt
  have hlow : ∀ i < 5, Key.slice ⟨d, n⟩ i = Key.slice ⟨d', n⟩ i := fun i => Key.slice_of_name d d' n
  unfold Key.bucket
  rw [← BitVec.toNat_xor, hlow 0 (by decide), hlow 1 (by decide), hlow 2 (by decide), hlow 3 (by decide),
    hlow 4 (by decide), hcancel, Key.slice_five_xor, BitVec.toNat_shiftLeft, BitVec.toNat_setWidth, Nat.shiftLeft_eq]
  omega

/-- Settles O4: each slice of the key read as an arithmetic digit, and the cancelling of the slices that lie in the name. -/
theorem bucketIndex : Obligations.BucketIndex := by
  refine ⟨fun k => ⟨?_, BitVec.isLt _⟩, Key.bucket_xor_bucket⟩
  rw [show List.range 6 = [0, 1, 2, 3, 4, 5] from rfl]
  simp only [List.map_cons, List.map_nil, List.foldl_cons, List.foldl_nil, ← Key.toNat_slice, Nat.zero_xor,
    ← BitVec.toNat_xor]
  rfl

/-! ### Reset (R151) -/

theorem State.cleared_atReset (s : State) (ready : Bool) : (s.cleared ready).atReset :=
  ⟨rfl, fun _ => rfl, rfl, fun _ => rfl, fun _ => rfl, fun _ => rfl, fun _ => rfl, fun _ => rfl, rfl, rfl, rfl, rfl⟩

/-- Settles O2: what both events leave is the reset record, with READY as the event sets it and the queue kept. -/
theorem resetValues : Obligations.ResetValues := by
  refine ⟨fun s => ⟨_, rfl, s.cleared_atReset false, rfl, rfl⟩, fun s hs => ?_, fun s hs => ?_,
    State.reset.cleared_atReset false, rfl⟩
  · refine ⟨s.cleared true, ?_, s.cleared_atReset true, rfl, rfl⟩
    simp [exec, execStartupEnd, hs]
  · simp [exec, execStartupEnd, hs]

end Sys2Proof.Machine
end

section
/-! PROOFS. What a lookup finds (R4), the end of an event that grants nothing (R14, R15, R40, R41), and the requests that read or
discard a resource (R17, R164). -/

namespace Sys2Proof.Machine

/-! ### Lookups (R4) -/

theorem lookup_none_of_absent {s : State} {k : Key} (h : ∀ w ∈ bucketWays k.bucket, s.holdsKey k w = false) :
    s.lookup k = none :=
  List.find?_eq_none.mpr fun w hw => by simp [h w hw]

theorem entry_of_active {s : State} {w : Nat} {e : Entry} (h : s.way w = .active e) : s.entry w = e := by
  rw [State.entry, h]
  rfl

theorem entry_of_dormant {s : State} {w : Nat} {e : Entry} (h : s.way w = .dormant e) : s.entry w = e := by
  rw [State.entry, h]
  rfl

@[simp] theorem lookup_popRequest (s : State) (ch : Nat) (k : Key) : (s.popRequest ch).lookup k = s.lookup k := rfl

@[simp] theorem checkSession_popRequest (s : State) (ch : Nat) (x : Option Nat) (h : SessionHandle) :
    (s.popRequest ch).checkSession x h = s.checkSession x h := rfl

/-! ### The end of an event without a grant (R14, R15, R40, R41) -/

theorem repeatTurn_none {turn : State → Option State} {s : State} (h : turn s = none) (fuel : Nat) :
    repeatTurn turn fuel s = s := by
  cases fuel with
  | zero => rfl
  | succ n => rw [repeatTurn, h]

/-- With no turn to take and nobody to tell, the grant pass does nothing. -/
theorem grantPass_idle {s : State} {w : Nat} (hc : s.convertTurn w = none) (hw : s.waitTurn w = none)
    (ht : s.tellHolders w = s) : s.grantPass w = s := by
  unfold State.grantPass
  dsimp only
  rw [repeatTurn_none (turn := (·.convertTurn w)) hc, repeatTurn_none (turn := (·.waitTurn w)) hw, ht]

theorem grantPass_of_empty {s : State} {w : Nat} {e : Entry} (h : s.way w = .active e) (hc : e.converts = [])
    (hw : e.waits = []) : s.grantPass w = s := by
  have he := entry_of_active h
  apply grantPass_idle
  · simp [State.convertTurn, he, hc]
  · simp [State.waitTurn, he, hc, hw]
  · simp [State.tellHolders, he, Entry.blockingHead, hc, hw]

/-- A way with a claim in its holder list stays as it is (R14). -/
theorem settle_of_holders {s : State} {w : Nat} {e : Entry} (h : s.way w = .active e) (hh : e.holders ≠ []) :
    s.settle w = s := by
  simp [State.settle, h, hh]

/-- With empty queues and a holder the end of an event changes nothing (R14, R40). -/
theorem finish_of_holders {s : State} {w : Nat} {e : Entry} (h : s.way w = .active e) (hc : e.converts = [])
    (hw : e.waits = []) (hh : e.holders ≠ []) : s.finish w = s := by
  rw [State.finish, grantPass_of_empty h hc hw, settle_of_holders h hh]

/-- An entry without claims is retired or becomes DORMANT by its value (R14, R15). -/
theorem finish_of_empty {s : State} {w : Nat} {e : Entry} (h : s.way w = .active e) (hc : e.converts = [])
    (hw : e.waits = []) (hh : e.holders = []) :
    s.finish w = if e.value = .absent then s.setWay w .free
      else (s.setWay w (.dormant e)).setDormant (bucketOf w) (s.dormantOrder (bucketOf w) ++ [w]) := by
  rw [State.finish, grantPass_of_empty h hc hw, State.settle, h]
  dsimp only
  rw [if_pos ⟨hh, hc, hw⟩]
  rcases hv : e.value with _ | v | v
  · rw [if_pos rfl]
  · rw [if_neg (by simp)]
    rfl
  · rw [if_neg (by simp)]
    rfl

theorem wantedMode_converting {s : State} {c : Nat} {b : Claim} {x m m' : Mode} {wait : Wait} (hb : s.claimAt c = some b)
    (hs : b.state = .converting x m wait) (hm : s.wantedMode c = some m') : m = m' := by
  simpa [State.wantedMode, hb, hs, ClaimState.wantedMode] using hm

theorem wantedMode_waiting {s : State} {c : Nat} {b : Claim} {m m' : Mode} {wait : Wait} (hb : s.claimAt c = some b)
    (hs : b.state = .waiting m wait) (hm : s.wantedMode c = some m') : m = m' := by
  simpa [State.wantedMode, hb, hs, ClaimState.wantedMode] using hm

/-- A holder in an incompatible mode, other than the claim left out, keeps a mode from being admitted (R33). -/
theorem admits_eq_false {s : State} {e : Entry} {m x : Mode} {d : Nat} {except : Option Nat} (hd : d ∈ e.holders)
    (hne : some d ≠ except) (hx : s.heldMode d = some x) (hcomp : x.compatible m = false) :
    s.admits e m except = false := by
  rw [State.admits, List.all_eq_false]
  exact ⟨d, hd, by simp [hx, hcomp, hne]⟩

/-- A holder that is the head itself, is noticed already, or whose session cannot be told, is not told (R41). -/
theorem tell_eq_self {s : State} {w c d : Nat} {q : QueueKind}
    (h : d ≠ c → ∀ b, s.claimAt d = some b → b.noticed = true ∨ s.canBeTold b.session = false) :
    s.tell w c q d = s := by
  unfold State.tell
  split
  · rename_i b held wanted hb _ _
    refine if_neg fun ⟨hne, _, hn, ht⟩ => ?_
    rcases h hne b hb with h | h
    · rw [h] at hn
      cases hn
    · rw [h] at ht
      cases ht
  · rfl

section
variable {s : State} {w c d : Nat} {e : Entry} {m x : Mode}

/-- A convert queue that is empty or whose head is blocked lets no turn be taken (R35). -/
theorem convertTurn_blocked (hway : s.way w = .active e) (hhead : e.converts.head? = some c ∨ e.converts = [])
    (hm : s.wantedMode c = some m) (hser : m = .exclusive → s.nextSerial ≠ none) (hd : d ∈ e.holders) (hne : d ≠ c)
    (hx : s.heldMode d = some x) (hcomp : x.compatible m = false) : s.convertTurn w = none := by
  rw [State.convertTurn, entry_of_active hway]
  rcases hq : e.converts with _ | ⟨c', rest⟩
  · rfl
  · obtain rfl : c' = c := by simpa [hq] using hhead
    dsimp only
    rcases hb : s.claimAt c' with _ | b
    · rfl
    · rcases hs : b.state with ⟨m', wait⟩ | ⟨m'⟩ | ⟨y, m', wait⟩ <;> simp only [hs]
      obtain rfl := wantedMode_converting hb hs hm
      rw [if_neg fun h => hser h.1 h.2, admits_eq_false hd (by simpa using hne) hx hcomp]
      rfl

/-- A wait queue that stands behind conversions or whose head is blocked lets no turn be taken (R36). -/
theorem waitTurn_blocked (hway : s.way w = .active e) (hhead : e.converts ≠ [] ∨ e.waits.head? = some c)
    (hm : s.wantedMode c = some m) (hser : m = .exclusive → s.nextSerial ≠ none) (hd : d ∈ e.holders)
    (hx : s.heldMode d = some x) (hcomp : x.compatible m = false) : s.waitTurn w = none := by
  rw [State.waitTurn, entry_of_active hway]
  split_ifs with hc
  · rfl
  · rcases hq : e.waits with _ | ⟨c', rest⟩
    · rfl
    · obtain rfl : c' = c := by simpa [hq, hc] using hhead
      dsimp only
      rcases hb : s.claimAt c' with _ | b
      · rfl
      · rcases hs : b.state with ⟨m', wait⟩ | ⟨m'⟩ | ⟨y, m', wait⟩ <;> simp only [hs]
        obtain rfl := wantedMode_waiting hb hs hm
        rw [if_neg fun h => hser h.1 h.2, admits_eq_false hd (by simp) hx hcomp]
        rfl

end

theorem blockingHead_cases {e : Entry} {c : Nat} {q : QueueKind} (h : e.blockingHead = some (c, q)) :
    e.converts.head? = some c ∨ (e.converts = [] ∧ e.waits.head? = some c) := by
  unfold Entry.blockingHead at h
  rcases hc : e.converts with _ | ⟨a, l⟩ <;> rcases hw : e.waits with _ | ⟨a', l'⟩ <;> simp_all

theorem tellHolders_eq_self {s : State} {w c : Nat} {e : Entry} (hway : s.way w = .active e)
    (hhead : e.converts.head? = some c ∨ (e.converts = [] ∧ e.waits.head? = some c))
    (h : ∀ d ∈ e.holders, d ≠ c → ∀ b, s.claimAt d = some b → b.noticed = true ∨ s.canBeTold b.session = false) :
    s.tellHolders w = s := by
  rw [State.tellHolders, entry_of_active hway]
  split
  · rename_i head q hb
    obtain rfl : head = c := by
      rcases blockingHead_cases hb with h1 | ⟨h1, h2⟩ <;> rcases hhead with h3 | ⟨h3, h4⟩ <;> simp_all
    refine List.foldlRecOn (motive := (· = s)) _ _ rfl fun t ht d hd => ?_
    rw [ht, tell_eq_self (h d hd)]
  · rfl

/-- Settles O24: with empty queues the pass has no turn and the value decides about the way; with a blocked head neither
queue has a turn and no holder is told. -/
theorem passGrantsNothing : Obligations.PassGrantsNothing := by
  intro s w e hway
  refine ⟨fun hc hw => ⟨finish_of_holders hway hc hw, fun hh hv => ?_, fun hh hv => ?_⟩, ?_⟩
  · rw [finish_of_empty hway hc hw hh, if_pos hv]
  · rw [finish_of_empty hway hc hw hh, if_neg hv]
  · rintro c m hhead hm hser ⟨d, hd, hne, x, hx, hcomp⟩ htold
    have hconv := convertTurn_blocked hway (hhead.imp_right And.left) hm hser hd hne hx hcomp
    have hwait : s.waitTurn w = none := by
      refine waitTurn_blocked hway (hhead.imp (fun h hn => ?_) And.right) hm hser hd hx hcomp
      simp [hn] at h
    rw [State.finish, grantPass_idle hconv hwait (tellHolders_eq_self hway hhead htold),
      settle_of_holders hway (List.ne_nil_of_mem hd)]

/-! ### DISCARD_RESOURCE (R17) -/

/-- A DISCARD_RESOURCE next to be taken on channel 0 acts by the way that its key is found in (R17, R163). -/
theorem exec_discardResource {s : State} {tag : ReqTag} {k : Key}
    (h : s.nextRequest 0 = some (.discardResource 0 tag (k.domain.setWidth 8) k.name)) :
    exec (.discardResource 0 tag (k.domain.setWidth 8) k.name) s =
      .next (match s.lookup k with
        | some w =>
          match s.way w with
          | .dormant _ => (s.leaveDormant w .free).answered 0 ⟨.discardResource, tag, .ok, .header⟩
          | .active _ => s.answered 0 ⟨.discardResource, tag, .busy, .header⟩
          | .free => s.answered 0 ⟨.discardResource, tag, .notFound, .header⟩
        | none => s.answered 0 ⟨.discardResource, tag, .notFound, .header⟩) := by
  have ha := nextRequest_active h
  have hreply (st : Status) := popRequest_hand ⟨.discardResource, tag, st, .header⟩ ha
  rw [exec, execDiscardResource, takeRequest_next h, State.discardResource, if_neg (by decide), keyOf_key]
  dsimp only
  rw [lookup_popRequest]
  rcases s.lookup k with _ | w
  · exact congrArg _ (hreply _)
  · dsimp only
    rw [State.way_popRequest]
    rcases s.way w with _ | e | e
    · exact congrArg _ (hreply _)
    · exact congrArg _ (hreply _)
    · refine congrArg _ (hand_answered _ (by simpa using ha) (by simp) fun c => ?_)
      simp [State.popRequest, State.setChan, State.leaveDormant, State.setDormant, State.setWay, State.dormantOrder]

/-- Settles O35, by the state of the way that the lookup finds. -/
theorem discardResourceFrees : Obligations.DiscardResourceFrees := by
  intro s tag k hn
  dsimp only
  rw [exec_discardResource hn]
  refine ⟨fun w e hl hw => ?_, fun w e hl hw => ?_, fun habs => ?_⟩
  · rw [hl]
    dsimp only
    rw [hw]
    rfl
  · rw [hl]
    dsimp only
    rw [hw]
  · rw [lookup_none_of_absent habs]

/-! ### The inspections (R5, R164) -/

theorem exec_inspectResource {s : State} {tag : ReqTag} {k : Key}
    (h : s.nextRequest 0 = some (.inspectResource 0 tag (k.domain.setWidth 8) k.name)) :
    exec (.inspectResource 0 tag (k.domain.setWidth 8) k.name) s =
      .next (s.answered 0 ⟨.inspectResource, tag, .ok, s.resourceReport k⟩) := by
  rw [exec, execInspectResource, takeRequest_next h, State.inspectResource, if_neg (by decide), keyOf_key]
  exact congrArg _ (popRequest_hand _ (nextRequest_active h))

/-- A handle of a session that is not FREE passes the check on channel 0, and its record is reported (R75, R164). -/
theorem exec_inspectSession {s : State} {tag : ReqTag} {i : Nat} (hi : i < 512)
    (h : s.nextRequest 0 = some (.inspectSession 0 tag (s.sessionHandle i))) (hne : s.sessionHandle i ≠ noSession)
    (hf : (s.session i).state ≠ .free) : exec (.inspectSession 0 tag (s.sessionHandle i)) s =
      .next (s.answered 0 ⟨.inspectSession, tag, .ok, s.sessionReport i⟩) := by
  have hpop := popRequest_hand ⟨.inspectSession, tag, .ok, s.sessionReport i⟩ (nextRequest_active h)
  rw [exec, execInspectSession, takeRequest_next h, State.inspectSession, if_neg (by decide), checkSession_popRequest]
  rcases hs : (s.session i).state with _ | o | l
  · exact absurd hs hf
  · rw [checkSession_opens (h := s.sessionHandle i) (ch := o.channel) ⟨hi, rfl, hne, hs, rfl⟩ (.inl rfl)]
    exact congrArg _ hpop
  · rw [State.sessionHandle, checkSession_lapses hi hne hs rfl (.inl rfl)]
    exact congrArg _ hpop

theorem exclusiveSession_of_none {s : State} {e : Entry} (h : ∀ c ∈ e.holders, s.heldMode c ≠ some .exclusive) :
    s.exclusiveSession e = noSession := by
  have hnone : s.exclusiveHolder e = none := List.find?_eq_none.mpr fun c hc => by simp [h c hc]
  rw [State.exclusiveSession, hnone]
  rfl

theorem exclusiveHolder_of_unique {s : State} {e : Entry} {c : Nat} (hc : c ∈ e.holders)
    (hx : s.heldMode c = some .exclusive) (hu : ∀ d ∈ e.holders, s.heldMode d = some .exclusive → d = c) :
    s.exclusiveHolder e = some c := by
  unfold State.exclusiveHolder
  rcases hf : e.holders.find? _ with _ | d
  · simpa [hx] using List.find?_eq_none.mp hf c hc
  · rw [hu d (List.mem_of_find?_eq_some hf) (by simpa using List.find?_some hf)]

theorem exclusiveSession_of_unique {s : State} {e : Entry} {c : Nat} {b : Claim} (hc : c ∈ e.holders)
    (hb : s.claimAt c = some b) (hx : b.state = .held .exclusive)
    (hu : ∀ d ∈ e.holders, s.heldMode d = some .exclusive → d = c) :
    s.exclusiveSession e = s.sessionHandle b.session := by
  have hm : s.heldMode c = some .exclusive := by simp [State.heldMode, hb, hx, ClaimState.heldMode]
  rw [State.exclusiveSession, exclusiveHolder_of_unique hc hm hu, Option.bind_some, hb]

/-- Settles O36: the reports read the records of the state as it was, and the X holder is the one that the list names. -/
theorem inspectionsReport : Obligations.InspectionsReport := by
  refine ⟨fun s tag k hn => ⟨fun habs => ?_, fun w e hl hw => ?_⟩,
    fun s tag i hi hn hne => ⟨fun o ho => ?_, fun l hl => ?_⟩⟩
  · rw [exec_inspectResource hn, State.resourceReport, lookup_none_of_absent habs]
    rfl
  · have he : s.entry w = e := hw.elim entry_of_active entry_of_dormant
    dsimp only
    rw [exec_inspectResource hn, State.resourceReport, hl]
    dsimp only
    rw [he]
    refine ⟨fun hnone => ?_, fun c b hc hb hx hu => ?_⟩
    · rw [exclusiveSession_of_none hnone]
      rfl
    · rw [exclusiveSession_of_unique hc hb hx hu]
  · rw [exec_inspectSession hi hn hne (by simp [ho]), State.sessionReport, ho]
  · rw [exec_inspectSession hi hn hne (by simp [hl]), State.sessionReport, hl]

end Sys2Proof.Machine
end

section
/-! PROOFS. ACQUIRE past its checks: where its key is placed (R10, R11, R13), and the grant at arrival (R33, R37, R39, R50). -/

namespace Sys2Proof.Machine

/-! ### Where an ACQUIRE is taken (R10, R11, R13) -/

theorem find?_of_sorted {l : List Nat} {p : Nat → Bool} {w : Nat} (hl : l.Pairwise (· < ·)) (hw : w ∈ l) (hp : p w = true)
    (hmin : ∀ w' ∈ l, w' < w → p w' = false) : l.find? p = some w := by
  induction l with
  | nil => cases hw
  | cons a l ih =>
    obtain ⟨ha, hl⟩ := List.pairwise_cons.mp hl
    rcases List.mem_cons.mp hw with rfl | hw
    · exact List.find?_cons_of_pos hp
    · rw [List.find?_cons_of_neg (by simp [hmin a List.mem_cons_self (ha w hw)])]
      exact ih hl hw fun w' h => hmin w' (List.mem_cons_of_mem _ h)

theorem bucketWays_sorted (b : Nat) : (bucketWays b).Pairwise (· < ·) :=
  List.pairwise_map.mpr (List.pairwise_lt_range.imp fun h => Nat.add_lt_add_left h _)

/-- The state in which the entry `e` stands ACTIVE in way `w` and the dormant orders are `d`. -/
def State.placed (s : State) (w : Nat) (e : Entry) (d : Table (List Nat) []) : State :=
  { s with ways := s.ways.set w (.active e), dormant := d }

section
variable {s : State} {k : Key} {w : Nat}

/-- An absent key is placed in the lowest-numbered FREE way of its bucket (R10). -/
theorem place_in_free (hl : s.lookup k = none) (hw : w ∈ bucketWays k.bucket) (hf : s.way w = .free)
    (hmin : ∀ w' ∈ bucketWays k.bucket, w' < w → s.way w' ≠ .free) :
    s.place k = some (w, s.placed w ⟨k, [], [], [], 0, .absent⟩ s.dormant) := by
  have hfind : (bucketWays k.bucket).find? (fun w => decide (s.way w = .free)) = some w :=
    find?_of_sorted (bucketWays_sorted _) hw (by simpa using hf) fun w' h hlt => by simpa using hmin w' h hlt
  rw [State.place, hl]
  dsimp only
  rw [hfind]
  rfl

/-- With no FREE way an absent key is placed in the way at the head of its bucket's dormant order (R11). -/
theorem place_in_evicted {rest : List Nat} (hl : s.lookup k = none) (hf : ∀ w' ∈ bucketWays k.bucket, s.way w' ≠ .free)
    (hd : s.dormantOrder k.bucket = w :: rest) (hw : w ∉ rest) (hb : bucketOf w = k.bucket) :
    s.place k = some (w, s.placed w ⟨k, [], [], [], 0, .absent⟩ (s.dormant.set k.bucket rest)) := by
  have hnone : (bucketWays k.bucket).find? (fun w => decide (s.way w = .free)) = none :=
    List.find?_eq_none.mpr fun w' h => by simpa using hf w' h
  have hrest : (w :: rest).filter (· != w) = rest := by
    rw [List.filter_cons_of_neg (by simp)]
    exact List.filter_eq_self.mpr fun a ha => by simpa using fun h : a = w => hw (h ▸ ha)
  rw [State.place, hl]
  dsimp only
  rw [hnone, hd]
  dsimp only
  rw [State.leaveDormant, hb, hd, hrest, State.createAt]
  simp [State.setWay, State.setDormant, State.placed, Entry.blank]

/-- A key at an ACTIVE way is taken there (R13). -/
theorem place_at_active {e : Entry} (hl : s.lookup k = some w) (hw : s.way w = .active e) :
    s.place k = some (w, s.placed w e s.dormant) := by
  have hset : s.ways.set w (.active e) = s.ways := by rw [← hw]; exact Table.set_get ..
  rw [State.place, hl]
  dsimp only
  rw [hw, State.placed, hset]

/-- A DORMANT key is reactivated (R13). -/
theorem place_at_dormant {e : Entry} (hl : s.lookup k = some w) (hw : s.way w = .dormant e) :
    s.place k = some (w, s.placed w e
      (s.dormant.set (bucketOf w) ((s.dormantOrder (bucketOf w)).filter (· != w)))) := by
  rw [State.place, hl]
  dsimp only
  rw [hw]
  rfl

end

/-! ### The checks of an ACQUIRE (R45 to R49) -/

theorem renew_opened {s : State} {i : Nat} {o : OpenSession} (h : (s.session i).state = .opened o) :
    s.renew i = s.renewed i o :=
  modOpen_opened _ h

theorem searchFreeClaim_congr {s t : State} (h : ∀ c, t.claimAt c = s.claimAt c) (fuel k : Nat) :
    t.searchFreeClaim fuel k = s.searchFreeClaim fuel k := by
  induction fuel generalizing k with
  | zero => rfl
  | succ n ih => rw [State.searchFreeClaim, State.searchFreeClaim, h, ih]

@[simp] theorem pickClaim_popRequest (s : State) (ch : Nat) : (s.popRequest ch).pickClaim = s.pickClaim := by
  rw [State.pickClaim, State.pickClaim, State.popRequest_choices, searchFreeClaim_congr (s.claimAt_popRequest ch)]

/-- What a request of session `i` finds once it passes the handle check: its entry is taken from channel `ch` and the session,
whose fields were `o`, is renewed (R78, R127). -/
def State.begun (s : State) (ch i : Nat) (o : OpenSession) : State := (s.popRequest ch).renewed i o

section
variable {s : State} {ch : Fin 16} {tag : ReqTag} {h : SessionHandle} {i : Nat} {o : OpenSession} {k : Key} {m : Mode}
  {limit : BitVec 16}

/-- An ACQUIRE in range that names an OPEN session of its client channel goes on to the checks of its kind (R45 to R48). -/
theorem exec_acquire (hn : s.nextRequest ch = some (.acquire ch tag h (k.domain.setWidth 8) m.code limit k.name))
    (hch : (ch : Nat) ≠ 0) (hs : s.namesOpen ch h i o) :
    exec (.acquire ch tag h (k.domain.setWidth 8) m.code limit k.name) s =
      .next ((s.begun ch i o).acquireChecked s.pickClaim ch tag i k m limit) := by
  obtain ⟨-, -, -, ho, -⟩ := id hs
  rw [exec, execAcquire, takeRequest_next hn, State.acquire, if_neg hch, Mode.ofCode_code, keyOf_key]
  dsimp only
  rw [checkSession_popRequest, checkSession_opens hs (.inr rfl)]
  dsimp only
  rw [renew_opened (s := s.popRequest ch) ho, pickClaim_popRequest]
  rfl

theorem claimCount_begun (ho : (s.session i).state = .opened o) (n : Nat) :
    (s.begun ch i o).claimCount n = s.claimCount n :=
  claimCount_renew (s := s.popRequest ch) (o := o) (o' := o.renewedAt s.now) ho rfl rfl n

/-- An ACQUIRE that passes its checks is taken where its key is placed (R49). -/
theorem acquireChecked_passes (hp : s.AcquirePasses ch h i o k m) (idx : Nat) :
    (s.begun ch i o).acquireChecked idx ch tag i k m limit =
      match (s.begun ch i o).place k with
      | some (w, t) => t.acquireAtEntry idx ch tag i w m limit
      | none => (s.begun ch i o).reply ch .acquire tag .noSlot := by
  obtain ⟨-, ⟨-, -, -, ho, -⟩, haccess, hsingle, hquota, hrecord, hserial⟩ := hp
  have hsession : ((s.begun ch i o).session i).state = .opened (o.renewedAt s.now) := by
    simp [State.begun, State.renewed]
  have h1 : ((s.begun ch i o).chan ch).access.get k.domain.toNat = .full := by
    rw [← haccess, ← popChan_access s ch]
    rfl
  have h2 : (s.begun ch i o).alreadyClaimed i k ≠ true := fun hc => by
    obtain ⟨c, hc, b, hb, hk⟩ := (alreadyClaimed_iff hsession).mp hc
    exact hsingle c hc b hb hk
  have h3 : ¬((s.begun ch i o).chan ch).claimLimit ≤ (s.begun ch i o).claimCount ch := by
    rw [claimCount_begun ho, Nat.not_le]
    exact hquota.trans_eq (popChan_claimLimit s ch ch).symm
  have h4 : (s.begun ch i o).freeClaims ≠ 0 := hrecord
  have h5 : ¬(m = .exclusive ∧ (s.begun ch i o).nextSerial = none) := fun ⟨hm, hx⟩ => hserial hm hx
  rw [State.acquireChecked, if_neg (by simp [h1]), if_neg h2, if_neg h3, if_neg h4, if_neg h5] <;> rfl

end

/-! ### The grant at arrival (R33, R37, R39, R50) -/

/-- The tables after claim `c` of session `i` is granted at arrival at way `w`, before its reply. -/
def State.grantedAt (s : State) (i : Nat) (o : OpenSession) (c w : Nat) (e : Entry) (m : Mode) : State :=
  { s.withNewClaim i o c ⟨i, w, .held m, s.serialFor m, false⟩ with
    ways := s.ways.set w (.active { e with holders := e.holders ++ [c], serial := (s.serialFor m).getD e.serial })
    nextSerial := s.counterAfter m }

theorem withGrant_eq (s : State) (ch : Nat) (tag : ReqTag) (i : Nat) (o : OpenSession) (c w : Nat) (e : Entry) (m : Mode) :
    s.withGrant ch tag i o c w e m = (s.grantedAt i o c w e m).answered ch
      ⟨.acquire, tag, .granted, .granted (s.claimHandle c) m e.value s.now ((s.serialFor m).getD 0)⟩ := rfl

theorem way_placed {s : State} {w : Nat} {e : Entry} {d : Table (List Nat) []} : (s.placed w e d).way w = .active e := by
  simp [State.placed, State.way]

theorem serialFor_allocate (s : State) (c i w : Nat) (st : ClaimState) (m : Mode) :
    (s.allocate c i w st).serialFor m = s.serialFor m := by
  rw [State.serialFor, State.allocate_nextSerial, State.serialFor]

theorem counterAfter_allocate (s : State) (c i w : Nat) (st : ClaimState) (m : Mode) :
    (s.allocate c i w st).counterAfter m = s.counterAfter m := by
  rw [State.counterAfter, serialFor_allocate, State.allocate_nextSerial, State.counterAfter]

/-- A claim allocated in a mode and held in it (R26, R37). -/
theorem hold_allocate {s : State} {i c w : Nat} {t : BitVec 7} {o : OpenSession} {e : Entry} {m : Mode}
    (ho : s.session i = ⟨t, .opened o⟩) (hw : s.way w = .active e) :
    (s.allocate c i w (.held m)).hold c w m = { s with
      sessions := s.sessions.set i ⟨t, .opened { o with claims := o.claims ++ [c] }⟩
      claims := s.claims.set c ⟨(s.claim c).tag, some ⟨i, w, .held m, s.serialFor m, false⟩⟩
      ways := s.ways.set w (.active { e with holders := e.holders ++ [c], serial := (s.serialFor m).getD e.serial })
      nextSerial := s.counterAfter m
      choices := s.choices + 1 } := by
  have hclaim : (s.allocate c i w (.held m)).claimAt c = some ⟨i, w, .held m, none, false⟩ := by
    rw [State.claimAt_allocate, if_pos rfl]
  have hway : (s.allocate c i w (.held m)).way w = .active { e with holders := e.holders ++ [c] } := by
    rw [State.way_allocate, if_pos rfl, hw]
    rfl
  have hserial : (if m = .exclusive then s.nextSerial.or none else none) = s.serialFor m := by
    rw [Option.or_none, State.serialFor]
  rw [hold_eq hclaim hway, serialFor_allocate, counterAfter_allocate, State.allocate_nextSerial, hserial,
    allocate_eq (o := o) (by rw [ho]) hw, ho]
  simp [State.claim, ClaimState.heldMode]

section
variable {s : State} {ch i c w : Nat} {o : OpenSession} {e : Entry} {m : Mode} {d : Table (List Nat) []}

/-- The claim record, the session, the entry and the counter after the grant. -/
theorem hold_allocate_placed :
    ((((s.begun ch i o).placed w e d).allocate c i w (.held m)).hold c w m) =
      (({ s with dormant := d } : State).grantedAt i o c w e m).popRequest ch := by
  have hsession : ((s.begun ch i o).placed w e d).session i = ⟨(s.session i).tag, .opened (o.renewedAt s.now)⟩ := by
    simp [State.begun, State.renewed, State.placed, State.setSession, State.session]
  have hs (r : SessionRec) : ((s.begun ch i o).placed w e d).sessions.set i r = s.sessions.set i r := Table.set_set ..
  have hw (x : Way) : ((s.begun ch i o).placed w e d).ways.set w x = s.ways.set w x := Table.set_set ..
  rw [hold_allocate hsession way_placed, hs, hw]
  rfl

/-- The claim just granted is of its session's channel. -/
theorem claimChannel_grantedAt {n : Nat} (hch : o.channel = n) : (s.grantedAt i o c w e m).claimChannel c = some n := by
  simp [State.claimChannel, State.claimAt, State.claim, State.session, State.grantedAt, State.withNewClaim,
    SessionRec.channel, OpenSession.renewedAt, hch]

theorem way_grantedAt : (s.grantedAt i o c w e m).way w =
    .active { e with holders := e.holders ++ [c], serial := (s.serialFor m).getD e.serial } := by
  simp [State.grantedAt, State.way]

/-- The GRANTED reply at the tables after the grant: the serial is that drawn, or 0 for S and U (R39). -/
theorem grantedReply_grantedAt {tag : ReqTag} (hx : m = .exclusive → s.nextSerial ≠ none) :
    (s.grantedAt i o c w e m).grantedReply .acquire tag c w m =
      ⟨.acquire, tag, .granted, .granted (s.claimHandle c) m e.value s.now ((s.serialFor m).getD 0)⟩ := by
  have hhandle : (s.grantedAt i o c w e m).claimHandle c = s.claimHandle c := by
    simp [State.claimHandle, State.claim, State.grantedAt, State.withNewClaim]
  have hserial : (if m = .exclusive then (s.serialFor m).getD e.serial else 0) = (s.serialFor m).getD 0 := by
    rw [State.serialFor]
    split_ifs with hm
    · obtain ⟨n, hn⟩ := Option.ne_none_iff_exists'.mp (hx hm)
      rw [hn]
      rfl
    · rfl
  rw [State.grantedReply, hhandle, entry_of_active way_grantedAt, hserial]
  rfl

/-- An ACQUIRE grantable at arrival where it was placed is granted, and the event leaves nothing else to do (R33, R50). -/
theorem acquireAtEntry_grants {tag : ReqTag} {limit : BitVec 16} (ha : (s.chan ch).state = .active) (hch : o.channel = ch)
    (hx : m = .exclusive → s.nextSerial ≠ none) (hc : e.converts = []) (hw : e.waits = [])
    (hadm : s.admits e m none = true) :
    ((s.begun ch i o).placed w e d).acquireAtEntry c ch tag i w m limit =
      ({ s with dormant := d } : State).withGrant ch tag i o c w e m := by
  have hgrantable : ((s.begun ch i o).placed w e d).acquireGrantable w m = true := by
    rw [State.acquireGrantable, entry_of_active way_placed, hc, hw]
    exact hadm
  have hgrant : (((s.begun ch i o).placed w e d).allocate c i w (.held m)).grant .acquire tag c w m =
      ({ s with dormant := d } : State).withGrant ch tag i o c w e m := by
    have hchan : ((({ s with dormant := d } : State).grantedAt i o c w e m).popRequest ch).claimChannel c = some ch :=
      claimChannel_grantedAt (e := e) hch
    have hreply : ((({ s with dormant := d } : State).grantedAt i o c w e m).popRequest ch).grantedReply .acquire tag c w m =
        _ := grantedReply_grantedAt (o := o) hx
    rw [State.grant, hold_allocate_placed, State.handClaim, hchan, hreply]
    exact popRequest_hand _ ha
  have hway : (({ s with dormant := d } : State).withGrant ch tag i o c w e m).way w = _ := way_grantedAt (i := i) (o := o)
  rw [State.acquireAtEntry, if_pos hgrantable, hgrant, finish_of_holders hway hc hw (by simp)]

end

/-! ### The obligations -/

section
variable {s : State} {ch : Fin 16} {tag : ReqTag} {h : SessionHandle} {i : Nat} {o : OpenSession} {k : Key} {m : Mode}
  {limit : BitVec 16} {w : Nat} {e : Entry} {d : Table (List Nat) []}

theorem exec_acquire_grants
    (hn : s.nextRequest ch = some (.acquire ch tag h (k.domain.setWidth 8) m.code limit k.name))
    (hp : s.AcquirePasses ch h i o k m) (hplace : (s.begun ch i o).place k = some (w, (s.begun ch i o).placed w e d))
    (hc : e.converts = []) (hw : e.waits = [])
    (hadm : ∀ c ∈ e.holders, ∀ x, s.heldMode c = some x → x.compatible m = true) :
    ∃ c < 32768, s.claimAt c = none ∧ exec (.acquire ch tag h (k.domain.setWidth 8) m.code limit k.name) s =
      .next (({ s with dormant := d } : State).withGrant ch tag i o c w e m) := by
  obtain ⟨hfree, hlt⟩ := pickClaim_free s hp.record
  obtain ⟨-, -, -, -, hch⟩ := hp.session
  refine ⟨s.pickClaim, hlt, hfree, ?_⟩
  rw [exec_acquire hn hp.client hp.session, acquireChecked_passes hp, hplace]
  exact congrArg _ (acquireAtEntry_grants (nextRequest_active hn) hch hp.serial hc hw (admits_of_compatible hadm))

end

/-- Settles O11: the way is the lowest-numbered FREE one or the head of the dormant order, and an entry without holders
admits every mode. -/
theorem acquireCreates : Obligations.AcquireCreates := by
  intro s ch tag h i o k m limit hn hp habs
  have hl : (s.begun ch i o).lookup k = none := lookup_none_of_absent (s := s) habs
  refine ⟨fun w hw hf hmin => ?_, fun w rest hf hd hnot hb => ?_⟩
  · exact exec_acquire_grants hn hp (place_in_free hl hw hf hmin) rfl rfl (by simp)
  · exact exec_acquire_grants hn hp (place_in_evicted hl hf hd hnot hb) rfl rfl (by simp)

/-- Settles O12: an ACTIVE way is taken as it is, a DORMANT one is made ACTIVE and leaves the dormant order. -/
theorem acquireGrantsAtEntry : Obligations.AcquireGrantsAtEntry := by
  intro s ch tag h i o k m limit w e hn hp hl hc hw
  refine ⟨fun hact hadm => ?_, fun hdorm hh => ?_⟩
  · exact exec_acquire_grants hn hp (place_at_active (s := s.begun ch i o) hl hact) hc hw hadm
  · exact exec_acquire_grants hn hp (place_at_dormant (s := s.begun ch i o) hl hdorm) hc hw (by simp [hh])

end Sys2Proof.Machine
end

section
/-! PROOFS. The Resource Table stays in order (R3, R4, R14 to R16): the moves that change entries only, the moves of one way, and
every step. -/

namespace Sys2Proof.Machine

/-! ### Changes that leave keys and way states as they were -/

/-- Every way keeps its state and its key: ACTIVE entries may change otherwise, DORMANT ones do not, and the dormant orders
stay. -/
structure SameTable (s t : State) : Prop where
  order : ∀ b, t.dormantOrder b = s.dormantOrder b
  ways : ∀ w, ∃ f : Entry → Entry, (∀ e, (f e).key = e.key) ∧ t.way w = (s.way w).update f

theorem SameTable.of_eq {s t : State} (ho : ∀ b, t.dormantOrder b = s.dormantOrder b) (hw : ∀ w, t.way w = s.way w) :
    SameTable s t :=
  ⟨ho, fun w => ⟨fun e => e, fun _ => rfl, by rw [hw, Way.update_id]⟩⟩

/-- The entries of some ways updated. -/
theorem SameTable.of_update {s t : State} (P : Nat → Prop) [DecidablePred P] (f : Entry → Entry)
    (hf : ∀ e, (f e).key = e.key) (ho : ∀ b, t.dormantOrder b = s.dormantOrder b)
    (hw : ∀ w, t.way w = if P w then (s.way w).update f else s.way w) : SameTable s t := by
  refine ⟨ho, fun w => ?_⟩
  rw [hw]
  split_ifs
  · exact ⟨f, hf, rfl⟩
  · exact ⟨fun e => e, fun _ => rfl, (Way.update_id _).symm⟩

theorem SameTable.of_updateAt {s t : State} (w : Nat) (f : Entry → Entry) (hf : ∀ e, (f e).key = e.key)
    (ho : ∀ b, t.dormantOrder b = s.dormantOrder b)
    (hw : ∀ k, t.way k = if k = w then (s.way w).update f else s.way k) : SameTable s t :=
  .of_update (· = w) f hf ho fun k => by
    rw [hw]
    split_ifs with h
    · rw [h]
    · rfl

theorem SameTable.trans {s t u : State} (h : SameTable s t) (h' : SameTable t u) : SameTable s u := by
  refine ⟨fun b => (h'.order b).trans (h.order b), fun w => ?_⟩
  obtain ⟨f, hf, e1⟩ := h.ways w
  obtain ⟨g, hg, e2⟩ := h'.ways w
  refine ⟨g ∘ f, fun e => (hg _).trans (hf e), ?_⟩
  rw [e2, e1]
  cases s.way w <;> rfl

theorem Way.update_eq_free {x : Way} {f : Entry → Entry} : x.update f = .free ↔ x = .free := by
  cases x <;> simp [Way.update]

theorem Way.update_eq_dormant {x : Way} {f : Entry → Entry} {e : Entry} : x.update f = .dormant e ↔ x = .dormant e := by
  cases x <;> simp [Way.update]

theorem Way.wayState_update (x : Way) (f : Entry → Entry) : (x.update f).wayState = x.wayState := by
  cases x <;> rfl

theorem Way.key_update {x : Way} {f : Entry → Entry} (hf : ∀ e, (f e).key = e.key) :
    (x.update f).entry.key = x.entry.key := by
  cases x <;> simp [Way.update, Way.entry, hf]

section
variable {s t : State}

theorem SameTable.free (h : SameTable s t) (w : Nat) : t.way w = .free ↔ s.way w = .free := by
  obtain ⟨f, -, e⟩ := h.ways w
  rw [e, Way.update_eq_free]

theorem SameTable.dormant (h : SameTable s t) (w : Nat) (e : Entry) : t.way w = .dormant e ↔ s.way w = .dormant e := by
  obtain ⟨f, -, he⟩ := h.ways w
  rw [he, Way.update_eq_dormant]

theorem SameTable.wayState (h : SameTable s t) (w : Nat) : (t.way w).wayState = (s.way w).wayState := by
  obtain ⟨f, -, e⟩ := h.ways w
  rw [e, Way.wayState_update]

theorem SameTable.key (h : SameTable s t) (w : Nat) : (t.entry w).key = (s.entry w).key := by
  obtain ⟨f, hf, e⟩ := h.ways w
  rw [State.entry, e, Way.key_update hf, State.entry]

theorem ResourcesKept.of_sameTable (hs : ResourcesKept s) (h : SameTable s t) : ResourcesKept t where
  home w hw := by
    rw [h.key]
    exact hs.home w (mt (h.free w).mpr hw)
  unique w w' hw hw' hk := by
    rw [h.key, h.key] at hk
    exact hs.unique w w' (mt (h.free w).mpr hw) (mt (h.free w').mpr hw') hk
  order b w := by
    rw [h.order, h.wayState]
    exact hs.order b w
  once b := by
    rw [h.order]
    exact hs.once b
  dormant w e he := hs.dormant w e ((h.dormant w e).mp he)

end

/-! ### The moves that change an entry without moving its way -/

theorem sameTable_modEntry (s : State) (w : Nat) (f : Entry → Entry) (hf : ∀ e, (f e).key = e.key) :
    SameTable s (s.modEntry w f) :=
  .of_updateAt w f hf (by simp) fun k => s.way_modEntry' w k f

theorem sameTable_hold (s : State) (c w : Nat) (m : Mode) : SameTable s (s.hold c w m) :=
  .of_updateAt w (fun e => { e with serial := if m = .exclusive then s.nextSerial.getD e.serial else e.serial })
    (fun _ => rfl) (by simp) fun k => s.way_hold c w k m

theorem sameTable_allocate (s : State) (c i w : Nat) (st : ClaimState) : SameTable s (s.allocate c i w st) :=
  .of_updateAt w _ (fun e => by split_ifs <;> rfl) (by simp) fun k => s.way_allocate c i w k st

theorem sameTable_endConversion (s : State) (c : Nat) : SameTable s (s.endConversion c) :=
  .of_update (fun k => (s.claimAt c).any fun b => b.way == k && b.state.isConverting)
    (fun e => { e with converts := e.converts.filter (· != c) }) (fun _ => rfl) (by simp) (s.way_endConversion c)

theorem sameTable_freeClaim (s : State) (c : Nat) : SameTable s (s.freeClaim c) :=
  .of_update (fun k => ∃ b, s.claimAt c = some b ∧ b.way = k) (Entry.without c) (fun _ => rfl) (by simp) fun k => by
    rw [s.way_freeClaim]

/-- A part that many commands share changes entries only, but for the decision about a way. -/
theorem sameTable_core {s t : State} (h : CoreMove s t) : SameTable s t ∨ ∃ w, t = s.settle w := by
  cases h
  case settled w => exact .inr ⟨w, rfl⟩
  all_goals left
  case conversionGranted c w _ m _ _ _ _ _ _ _ _ =>
    exact .trans (sameTable_modEntry _ _ _ fun _ => by rfl) (sameTable_hold ..)
  case waitGranted c w m _ _ _ _ _ _ _ _ _ =>
    exact .trans (sameTable_modEntry _ _ _ fun _ => by rfl) (sameTable_hold ..)
  case conversionEnded => exact sameTable_endConversion ..
  case freed => exact sameTable_freeClaim ..
  case valued => exact sameTable_modEntry _ _ _ fun _ => rfl
  case interrupt => exact .of_eq (fun _ => rfl) fun _ => rfl
  case choose => exact .of_eq (fun _ => rfl) fun _ => rfl
  all_goals exact .of_eq (by simp) (by simp)

/-! ### The moves of a way (R3, R10, R11, R13 to R17) -/

theorem mem_bucketWays {w b : Nat} : w ∈ bucketWays b ↔ bucketOf w = b := by
  unfold bucketWays bucketOf
  simp only [List.mem_map, List.mem_range, show Config.waysPerBucket = 4 from rfl]
  constructor
  · rintro ⟨j, hj, rfl⟩
    omega
  · intro h
    exact ⟨w % 4, by omega, by omega⟩

/-- A key that the lookup does not find stands in no way (R3, R4). -/
theorem key_ne_of_lookup_none {s : State} {k : Key} (hs : ResourcesKept s) (hl : s.lookup k = none) {w : Nat}
    (hw : s.way w ≠ .free) : (s.entry w).key ≠ k := by
  intro hk
  have hmem : w ∈ bucketWays k.bucket := mem_bucketWays.mpr (hk ▸ hs.home w hw)
  have hno := List.find?_eq_none.mp hl w hmem
  rcases hx : s.way w with _ | e | e
  · exact hw hx
  · rw [entry_of_active hx] at hk
    exact hno (by simpa [State.holdsKey, hx] using hk)
  · rw [entry_of_dormant hx] at hk
    exact hno (by simpa [State.holdsKey, hx] using hk)

section
variable {s t : State} {w : Nat} {x : Way}

/-- Way `w` becomes `x`, standing at the tail of its bucket's dormant order if that is DORMANT and in no dormant order else, and
the rest of the table stays: in order if an entry in `x` is at home there, its key is in no other way, and it may be DORMANT if
it is. -/
theorem ResourcesKept.of_way (hs : ResourcesKept s) (hway : ∀ k, t.way k = if k = w then x else s.way k)
    (horder : ∀ b, t.dormantOrder b = (s.dormantOrder b).filter (· != w) ++
      if bucketOf w = b ∧ x.wayState = .dormant then [w] else [])
    (hhome : x ≠ .free → bucketOf w = x.entry.key.bucket)
    (hkey : x ≠ .free → ∀ k, k ≠ w → s.way k ≠ .free → (s.entry k).key ≠ x.entry.key)
    (hx : ∀ e, x = .dormant e → e.holders = [] ∧ e.converts = [] ∧ e.waits = [] ∧ e.value ≠ .absent) :
    ResourcesKept t := by
  have hentry (k : Nat) : t.entry k = if k = w then x.entry else s.entry k := by
    rw [State.entry, hway]
    split_ifs <;> rfl
  refine ⟨fun k hk => ?_, fun k k' hk hk' he => ?_, fun b k => ?_, fun b => ?_, fun k e he => ?_⟩
  · rw [hentry]
    rw [hway] at hk
    split_ifs at hk ⊢ with h
    · exact h ▸ hhome hk
    · exact hs.home k hk
  · rw [hentry, hentry] at he
    rw [hway] at hk hk'
    split_ifs at hk hk' he with h h' h'
    · rw [h, h']
    · exact absurd he.symm (hkey hk k' h' hk')
    · exact absurd he (hkey hk' k h hk)
    · exact hs.unique k k' hk hk' he
  · rw [horder, hway, List.mem_append, List.mem_filter, hs.order]
    by_cases h : k = w <;> simp [h]
  · rw [horder]
    refine List.nodup_append.mpr ⟨(hs.once b).filter _, by split_ifs <;> simp, fun k hk k' hk' => ?_⟩
    have hk'w : k' = w := by
      split_ifs at hk'
      · exact List.mem_singleton.mp hk'
      · cases hk'
    simpa [hk'w] using (List.mem_filter.mp hk).2
  · rw [hway] at he
    split_ifs at he
    · exact hx e he
    · exact hs.dormant k e he

/-- Way `w` becomes ACTIVE or FREE and leaves its dormant order, if it stands in it. -/
theorem ResourcesKept.of_leave (hs : ResourcesKept s) (hway : ∀ k, t.way k = if k = w then x else s.way k)
    (horder : ∀ b, t.dormantOrder b = (s.dormantOrder b).filter (· != w)) (hx : x.wayState ≠ .dormant)
    (hhome : x ≠ .free → bucketOf w = x.entry.key.bucket)
    (hkey : x ≠ .free → ∀ k, k ≠ w → s.way k ≠ .free → (s.entry k).key ≠ x.entry.key) : ResourcesKept t :=
  hs.of_way hway (by simp [horder, hx]) hhome hkey fun e he => absurd rfl (he ▸ hx)

/-- The key of an entry stands in no other way (R4). -/
theorem ResourcesKept.key_ne (hs : ResourcesKept s) (hw : s.way w ≠ .free) (k : Nat) (hk : k ≠ w) (hf : s.way k ≠ .free) :
    (s.entry k).key ≠ (s.entry w).key :=
  fun h => hk (hs.unique k w hf hw h)

/-- A dormant order does not change when a way that is not DORMANT leaves it. -/
theorem ResourcesKept.filter_order (hs : ResourcesKept s) {b : Nat} (h : bucketOf w ≠ b ∨ (s.way w).wayState ≠ .dormant) :
    (s.dormantOrder b).filter (· != w) = s.dormantOrder b := by
  refine List.filter_eq_self.mpr fun k hk => ?_
  obtain ⟨hb, hd⟩ := (hs.order b k).mp hk
  simp only [bne_iff_ne]
  rintro rfl
  exact h.elim (· hb) (· hd)

theorem ResourcesKept.dormantOrder_leaveDormant (hs : ResourcesKept s) (w b : Nat) (x : Way) :
    (s.leaveDormant w x).dormantOrder b = (s.dormantOrder b).filter (· != w) := by
  rw [State.dormantOrder_leaveDormant]
  split_ifs with h
  · rfl
  · rw [hs.filter_order (.inl (Ne.symm h))]

/-- The way of a DORMANT key discarded (R17). -/
theorem ResourcesKept.discarded (hs : ResourcesKept s) (w : Nat) : ResourcesKept (s.leaveDormant w .free) :=
  hs.of_leave (s.way_leaveDormant w · .free) (hs.dormantOrder_leaveDormant w · .free) (by decide) (absurd rfl) (absurd rfl)

/-- A DORMANT way made ACTIVE again (R13). -/
theorem ResourcesKept.reactivated {e : Entry} (hs : ResourcesKept s) (hw : s.way w = .dormant e) :
    ResourcesKept (s.leaveDormant w (.active e)) := by
  have he : (Way.active e).entry = s.entry w := (entry_of_dormant hw).symm
  have hf : s.way w ≠ .free := by simp [hw]
  exact hs.of_leave (s.way_leaveDormant w · _) (hs.dormantOrder_leaveDormant w · _) (by simp [Way.wayState])
    (fun _ => he ▸ hs.home w hf) fun _ => he ▸ hs.key_ne hf

/-- The entry of an absent key made in a FREE way (R10). -/
theorem ResourcesKept.created {k : Key} (hs : ResourcesKept s) (hl : s.lookup k = none) (hb : bucketOf w = k.bucket)
    (hw : s.way w = .free) : ResourcesKept (s.createAt w k) :=
  hs.of_leave (s.way_createAt w · k) (fun b => (hs.filter_order (.inr (by rw [hw]; decide))).symm) (by simp [Way.wayState])
    (fun _ => hb) fun _ _ _ hf => key_ne_of_lookup_none hs hl hf

/-- The entry of an absent key made in the way evicted from its bucket's dormant order (R11). -/
theorem ResourcesKept.evicted {k : Key} {rest : List Nat} (hs : ResourcesKept s) (hl : s.lookup k = none)
    (hd : s.dormantOrder k.bucket = w :: rest) : ResourcesKept ((s.leaveDormant w .free).createAt w k) := by
  obtain ⟨hb, -⟩ := (hs.order k.bucket w).mp (hd ▸ List.mem_cons_self)
  refine hs.of_leave (x := .active { Entry.blank with key := k }) (fun j => ?_) (hs.dormantOrder_leaveDormant w · .free)
    (by simp [Way.wayState]) (fun _ => hb) fun _ _ _ hf => key_ne_of_lookup_none hs hl hf
  rw [State.way_createAt, State.way_leaveDormant]
  split_ifs <;> rfl

/-- An ACTIVE way without claims and with a value made DORMANT at the tail of its bucket's dormant order (R15, R16). -/
theorem ResourcesKept.madeDormant {e : Entry} (hs : ResourcesKept s) (hw : s.way w = .active e)
    (hempty : e.holders = [] ∧ e.converts = [] ∧ e.waits = []) (hv : e.value ≠ .absent) :
    ResourcesKept ((s.setDormant (bucketOf w) (s.dormantOrder (bucketOf w) ++ [w])).setWay w (.dormant e)) := by
  have he : (Way.dormant e).entry = s.entry w := (entry_of_active hw).symm
  have hf : s.way w ≠ .free := by simp [hw]
  obtain ⟨hh, hc, hq⟩ := hempty
  refine hs.of_way (x := .dormant e) (by simp) (fun b => ?_) (fun _ => he ▸ hs.home w hf) (fun _ => he ▸ hs.key_ne hf)
    fun e' h => ?_
  · rw [hs.filter_order (.inr (by simp [hw, Way.wayState])), State.dormantOrder_setWay, State.dormantOrder_setDormant]
    by_cases hb : b = bucketOf w
    · simp [hb, Way.wayState]
    · simp [hb, Ne.symm hb]
  · cases h
    exact ⟨hh, hc, hq, hv⟩

/-- An ACTIVE way retired (R14). -/
theorem ResourcesKept.retired {e : Entry} (hs : ResourcesKept s) (hw : s.way w = .active e) :
    ResourcesKept (s.setWay w .free) :=
  hs.of_leave (s.way_setWay w .free) (fun b => (hs.filter_order (.inr (by simp [hw, Way.wayState]))).symm) (by decide)
    (absurd rfl) (absurd rfl)

/-- The decision about a way (R14, R15). -/
theorem ResourcesKept.settled (hs : ResourcesKept s) (w : Nat) : ResourcesKept (s.settle w) := by
  unfold State.settle
  rcases hw : s.way w with _ | e | e <;> dsimp only
  · exact hs
  · split_ifs with hempty
    · rcases hv : e.value with _ | v | v
      · exact hs.retired hw
      · exact hs.madeDormant hw hempty (by simp [hv])
      · exact hs.madeDormant hw hempty (by simp [hv])
    · exact hs
  · exact hs

end

/-! ### Every step -/

theorem ResourcesKept.core {s t : State} (h : CoreMove s t) (hs : ResourcesKept s) : ResourcesKept t := by
  rcases sameTable_core h with h | ⟨w, rfl⟩
  · exact hs.of_sameTable h
  · exact hs.settled w

theorem ResourcesKept.move {allow : Nat → ChanState → ChanState → Prop} {own : Nat → Prop} {s t : State}
    (h : Move allow own s t) (hs : ResourcesKept s) : ResourcesKept t := by
  cases h
  case core h => exact hs.core h
  case created hl hw hf => exact hs.created hl (mem_bucketWays.mp hw) hf
  case evicted hl hd => exact hs.evicted hl hd
  case discarded => exact hs.discarded _
  case reactivated hw => exact hs.reactivated hw
  all_goals refine hs.of_sameTable ?_
  case grantedAtOnce => exact (sameTable_allocate ..).trans (sameTable_hold ..)
  case queued => exact sameTable_allocate ..
  case upgradedAtOnce => exact sameTable_hold ..
  case converting => exact .trans (.of_eq (by simp) (by simp)) (sameTable_modEntry _ _ _ fun _ => rfl)
  case teardownReply => exact .of_eq (fun _ => rfl) fun _ => rfl
  case registers => exact .of_eq (fun _ => rfl) fun _ => rfl
  case requestPeriod => exact .of_eq (fun _ => rfl) fun _ => rfl
  all_goals exact .of_eq (by simp) (by simp)

theorem ResourcesKept.moves {allow : Nat → ChanState → ChanState → Prop} {own : Nat → Prop} {s t : State}
    (h : Moves allow own s t) (hs : ResourcesKept s) : ResourcesKept t := by
  induction h with
  | refl => exact hs
  | tail _ h ih => exact ih.move h

/-- A state whose ways are all FREE and whose dormant orders are all empty. -/
theorem resourcesKept_of_empty {s : State} (hw : ∀ w, s.way w = .free) (hd : ∀ b, s.dormantOrder b = []) :
    ResourcesKept s where
  home w h := absurd (hw w) h
  unique w _ h := absurd (hw w) h
  order b w := by simp [hw, hd, Way.wayState]
  once b := by simp [hd]
  dormant w e h := by simp [hw] at h

theorem ResourcesKept.exec {c : Instr} {s t : State} (h : exec c s = .next t) (hs : ResourcesKept s) : ResourcesKept t := by
  by_cases htick : c = .tick
  · subst htick
    cases h
    split_ifs
    · exact hs.of_sameTable (.of_eq (fun _ => rfl) fun _ => rfl)
    · exact hs
  by_cases hreset : c = .deviceReset
  · subst hreset
    cases h
    exact resourcesKept_of_empty (fun _ => rfl) fun _ => rfl
  by_cases hstart : c = .startupEnd
  · subst hstart
    cases h
    split_ifs
    · exact hs
    · exact resourcesKept_of_empty (fun _ => rfl) fun _ => rfl
  exact hs.moves (exec_moves h htick hreset hstart)

/-- Settles O51: every command is a chain of moves, a tick or a reset, and each of these keeps the table in order. -/
theorem resourcesKeptByStep : Obligations.ResourcesKeptByStep := by
  intro s t hs h
  unfold step at h
  split at h
  · refine ResourcesKept.exec h (hs.of_sameTable ?_)
    exact .of_eq (fun _ => rfl) fun _ => rfl
  · cases h
    exact hs

end Sys2Proof.Machine
end

section
/-! PROOFS. The state after a device reset meets every invariant (R21, R31, R92, R119). -/

namespace Sys2Proof.Machine

section
variable (n : Nat)

@[simp] theorem State.reset_chan : State.reset.chan n = Channel.reset := rfl
@[simp] theorem State.reset_session : State.reset.session n = SessionRec.reset := rfl
@[simp] theorem State.reset_claimAt : State.reset.claimAt n = none := rfl
@[simp] theorem State.reset_way : State.reset.way n = .free := rfl
@[simp] theorem State.reset_entry : State.reset.entry n = Entry.blank := rfl
@[simp] theorem State.reset_dormantOrder : State.reset.dormantOrder n = [] := rfl
@[simp] theorem Channel.reset_state : Channel.reset.state = .off := rfl
@[simp] theorem SessionRec.reset_state : SessionRec.reset.state = .free := rfl

end

theorem reset_channelsQuiet : ChannelsQuiet State.reset where
  off _ _ := rfl
  owed _ _ := rfl
  notices _ _ := rfl
  entries _ _ h := by cases h

theorem reset_ringsKept : RingsKept State.reset where
  configured n h := by simp at h
  indices n h := by simp at h

theorem reset_countsKept : CountsKept State.reset where
  sessions _ := Nat.zero_le _
  claims _ := Nat.zero_le _
  without _ _ := rfl
  granted := by decide

theorem reset_resourcesKept : ResourcesKept State.reset := resourcesKept_of_empty (fun _ => rfl) fun _ => rfl

theorem reset_claimsPlaced : ClaimsPlaced State.reset where
  owner c b h := by cases h
  place c b h := by cases h
  owned i o c h := by cases h
  listed w c h := by simp [Entry.blank] at h
  ownedOnce i o h := by cases h
  listedOnce w := ⟨List.nodup_nil, List.nodup_nil, List.nodup_nil⟩
  single c c' b b' h := by cases h
  pool c b h := by cases h

theorem reset_reservationsKept : ReservationsKept State.reset where
  owed n := by
    rw [State.reserved, State.reset_chan, if_neg (c := Channel.reset.state = .active) (by decide)]
    split_ifs <;> rfl
  within n h := by cases h
  client i h := by cases h
  teardown n h := absurd rfl h

theorem reset_leasesKept : LeasesKept State.reset where
  holder w c h := by cases h
  converting w c h := by cases h
  waiting w c h := by cases h
  dormant w e h := by cases h
  compatible w c c' m m' h := by cases h
  serial w c b h := by cases h

theorem reset_serialsKept : SerialsKept State.reset where
  zero := by decide
  claims c b n h := by cases h
  entries w m h := by
    cases h
    exact (by decide : (0 : Serial) < 1)
  distinct c c' b b' n h := by cases h

theorem reset_handlesKept : HandlesKept State.reset := by
  intro i _ h
  have htag := congrArg sessionTag h
  rw [State.sessionHandle, sessionTag_sessionHandle] at htag
  exact absurd htag (by decide : (0 : BitVec 7) ≠ sessionTag noSession)

theorem reset_periodsKept : PeriodsKept State.reset := ⟨by decide, by decide, fun p h => by cases h⟩

/-- Settles O57: at reset no record is in use, so each invariant speaks of empty tables but for the counter, the arbiter
and the periods. -/
theorem resetMeetsInvariants : Obligations.ResetMeetsInvariants :=
  ⟨reset_channelsQuiet, reset_ringsKept, reset_countsKept, reset_resourcesKept, reset_claimsPlaced, reset_reservationsKept,
    reset_leasesKept, reset_serialsKept, reset_handlesKept, reset_periodsKept⟩

end Sys2Proof.Machine
end

section
/-! PROOFS. The leases stay in order (R24, R32, R109): changes that take claims off the lists, changes of one claim at its entry,
and every step. -/

namespace Sys2Proof.Machine

/-! ### Modes (R32, R54) -/

theorem Mode.compatible_comm (a b : Mode) : a.compatible b = b.compatible a := by cases a <;> cases b <;> rfl

/-- A downgrade is compatible with all that the old mode was (R54). -/
theorem Mode.compatible_downgrade {h m x : Mode} (hk : conversionKind h m = .downgrade) (hx : x.compatible h = true) :
    x.compatible m = true := by
  cases h <;> cases m <;> cases x <;> simp_all [conversionKind, Mode.compatible]

theorem downgrade_ne_exclusive {h m : Mode} (hk : conversionKind h m = .downgrade) : m ≠ .exclusive := by
  rintro rfl
  cases h <;> cases hk

/-- What it is for a mode to be admitted by the holders of an entry (R33). -/
theorem admits_iff {s : State} {e : Entry} {m : Mode} {except : Option Nat} : s.admits e m except = true ↔
    ∀ d ∈ e.holders, some d ≠ except → ∀ x, s.heldMode d = some x → x.compatible m = true := by
  rw [State.admits, List.all_eq_true]
  refine forall₂_congr fun d _ => ?_
  rcases s.heldMode d with _ | x
  · simp
  · simp [or_iff_not_imp_left]

theorem heldMode_of_claimAt {s : State} {c : Nat} {b : Claim} (h : s.claimAt c = some b) :
    s.heldMode c = b.state.heldMode := by
  rw [State.heldMode, h]
  rfl

/-! ### Lists that lose claims -/

/-- Claim `c` stands in one of the lists of an entry. -/
def Entry.lists (e : Entry) (c : Nat) : Prop := c ∈ e.holders ∨ c ∈ e.converts ∨ c ∈ e.waits

/-- The lists of every entry lose claims or stay, the serial of an entry with holders stays, and a claim that stays in a list keeps
its way, held mode and serial. -/
structure ListsShrink (s t : State) : Prop where
  holders : ∀ w, (t.entry w).holders ⊆ (s.entry w).holders
  converts : ∀ w, (t.entry w).converts ⊆ (s.entry w).converts
  waits : ∀ w, (t.entry w).waits ⊆ (s.entry w).waits
  serial : ∀ w c, c ∈ (t.entry w).holders → (t.entry w).serial = (s.entry w).serial
  dormant : ∀ w e, t.way w = .dormant e →
    (∃ e', s.way w = .dormant e') ∨ (e.holders = [] ∧ e.converts = [] ∧ e.waits = [])
  claims : ∀ w c b, (t.entry w).lists c → s.claimAt c = some b → b.way = w →
    ∃ b', t.claimAt c = some b' ∧ b'.way = b.way ∧ b'.state.heldMode = b.state.heldMode ∧ b'.serial = b.serial

/-- The claims that stand in the lists of way `w` stand at `w` (R24). -/
theorem LeasesKept.at_way {s : State} (hs : LeasesKept s) {w c : Nat} (h : (s.entry w).lists c) :
    ∃ b, s.claimAt c = some b ∧ b.way = w := by
  rcases h with h | h | h
  · obtain ⟨b, hb, hw, -⟩ := hs.holder w c h
    exact ⟨b, hb, hw⟩
  · exact hs.converting w c h
  · exact hs.waiting w c h

theorem LeasesKept.shrink {s t : State} (hs : LeasesKept s) (h : ListsShrink s t) : LeasesKept t := by
  have still (w c : Nat) (hc : (t.entry w).lists c) :
      ∃ b b', s.claimAt c = some b ∧ t.claimAt c = some b' ∧ b'.way = w ∧ b'.state.heldMode = b.state.heldMode ∧
        b'.serial = b.serial := by
    obtain ⟨b, hb, hw⟩ := hs.at_way (hc.imp (@h.holders w c) (Or.imp (@h.converts w c) (@h.waits w c)))
    obtain ⟨b', hb', hw', hm, hn⟩ := h.claims w c b hc hb hw
    exact ⟨b, b', hb, hb', hw'.trans hw, hm, hn⟩
  have mode (w c : Nat) (hc : c ∈ (t.entry w).holders) : t.heldMode c = s.heldMode c := by
    obtain ⟨b, b', hb, hb', -, hm, -⟩ := still w c (.inl hc)
    rw [heldMode_of_claimAt hb, heldMode_of_claimAt hb', hm]
  refine ⟨fun w c hc => ?_, fun w c hc => ?_, fun w c hc => ?_, fun w e he => ?_, fun w c c' m m' hc hc' hne hm hm' => ?_,
    fun w c b hc hb hx => ?_⟩
  · obtain ⟨b, b', hb, hb', hw, hm, -⟩ := still w c (.inl hc)
    obtain ⟨b₀, hb₀, -, hheld⟩ := hs.holder w c (h.holders w hc)
    obtain rfl : b₀ = b := by simpa [hb₀] using hb
    exact ⟨b', hb', hw, hm ▸ hheld⟩
  · obtain ⟨-, b', -, hb', hw, -⟩ := still w c (.inr (.inl hc))
    exact ⟨b', hb', hw⟩
  · obtain ⟨-, b', -, hb', hw, -⟩ := still w c (.inr (.inr hc))
    exact ⟨b', hb', hw⟩
  · rcases h.dormant w e he with ⟨e', he'⟩ | hempty
    · obtain ⟨h1, h2, h3⟩ := hs.dormant w e' he'
      have hh := h.holders w
      have hc := h.converts w
      have hw := h.waits w
      rw [entry_of_dormant he, entry_of_dormant he'] at hh hc hw
      exact ⟨List.subset_nil.mp (h1 ▸ hh), List.subset_nil.mp (h2 ▸ hc), List.subset_nil.mp (h3 ▸ hw)⟩
    · exact hempty
  · rw [mode w c hc] at hm
    rw [mode w c' hc'] at hm'
    exact hs.compatible w c c' m m' (h.holders w hc) (h.holders w hc') hne hm hm'
  · obtain ⟨b₀, b', hb₀, hb', -, hm, hn⟩ := still w c (.inl hc)
    obtain rfl : b' = b := by simpa [hb'] using hb
    rw [h.serial w c hc, hn]
    exact hs.serial w c b₀ (h.holders w hc) hb₀ (hm ▸ hx)

theorem LeasesKept.active_of_lists {s : State} (hs : LeasesKept s) {w c : Nat} (h : (s.entry w).lists c) :
    s.way w = .active (s.entry w) := by
  rcases hw : s.way w with _ | e | e
  · rw [State.entry, hw] at h
    simp [Entry.lists, Way.entry, Entry.blank] at h
  · rw [entry_of_active hw]
  · obtain ⟨h1, h2, h3⟩ := hs.dormant w e hw
    rw [entry_of_dormant hw] at h
    simp [Entry.lists, h1, h2, h3] at h

/-- The entries of ACTIVE ways lose claims from their lists or change their values, and a claim that stays in a list keeps its way,
held mode and serial. -/
theorem ListsShrink.of_updates {s t : State} (hs : LeasesKept s) (f : Nat → Entry → Entry)
    (hw : ∀ w, t.way w = (s.way w).update (f w))
    (hh : ∀ w e, (f w e).holders ⊆ e.holders) (hc : ∀ w e, (f w e).converts ⊆ e.converts)
    (hq : ∀ w e, (f w e).waits ⊆ e.waits) (hn : ∀ w e, (f w e).serial = e.serial)
    (hcl : ∀ w e c b, s.way w = .active e → (f w e).lists c → s.claimAt c = some b → b.way = w →
      ∃ b', t.claimAt c = some b' ∧ b'.way = b.way ∧ b'.state.heldMode = b.state.heldMode ∧ b'.serial = b.serial) :
    ListsShrink s t := by
  have he (w : Nat) : t.entry w = s.entry w ∨ t.entry w = f w (s.entry w) := by
    rw [State.entry, hw, State.entry]
    rcases s.way w with _ | e | e
    · exact .inl rfl
    · exact .inr rfl
    · exact .inl rfl
  have hsub (w : Nat) : (t.entry w).holders ⊆ (s.entry w).holders ∧ (t.entry w).converts ⊆ (s.entry w).converts ∧
      (t.entry w).waits ⊆ (s.entry w).waits := by
    rcases he w with h | h <;> rw [h]
    · exact ⟨List.Subset.refl _, List.Subset.refl _, List.Subset.refl _⟩
    · exact ⟨hh .., hc .., hq ..⟩
  refine ⟨fun w => (hsub w).1, fun w => (hsub w).2.1, fun w => (hsub w).2.2, fun w c _ => ?_, fun w e hd => ?_,
    fun w c b hl hb hbw => ?_⟩
  · rcases he w with h | h <;> rw [h]
    exact hn ..
  · rw [hw, Way.update_eq_dormant] at hd
    exact .inl ⟨e, hd⟩
  · obtain ⟨h1, h2, h3⟩ := hsub w
    have hact := hs.active_of_lists (hl.imp (@h1 c) (Or.imp (@h2 c) (@h3 c)))
    rw [State.entry, hw, hact] at hl
    exact hcl w _ c b hact hl hb hbw

/-- A change that leaves the ways alone, and of every claim its way, held mode and serial. -/
theorem ListsShrink.of_claims {s t : State} (hs : LeasesKept s) (hw : ∀ w, t.way w = s.way w)
    (hc : ∀ c b, s.claimAt c = some b → ∃ b', t.claimAt c = some b' ∧ b'.way = b.way ∧
      b'.state.heldMode = b.state.heldMode ∧ b'.serial = b.serial) : ListsShrink s t :=
  .of_updates hs (fun _ e => e) (fun w => by rw [hw, Way.update_id]) (fun _ _ => List.Subset.refl _)
    (fun _ _ => List.Subset.refl _) (fun _ _ => List.Subset.refl _) (fun _ _ => rfl) fun _ _ c b _ _ hb _ => hc c b hb

theorem ListsShrink.of_eq {s t : State} (hs : LeasesKept s) (hw : ∀ w, t.way w = s.way w) (hc : ∀ c, t.claimAt c = s.claimAt c) :
    ListsShrink s t :=
  .of_claims hs hw fun c b hb => ⟨b, by rw [hc, hb], rfl, rfl, rfl⟩

/-- Way `w` becomes `x`, whose lists are empty or those of the entry that stood there. -/
theorem ListsShrink.of_way {s t : State} {w : Nat} {x : Way} (hw : ∀ k, t.way k = if k = w then x else s.way k)
    (hc : ∀ c, t.claimAt c = s.claimAt c)
    (hx : x.entry = s.entry w ∧ (∀ e, x = .dormant e → ∃ e', s.way w = .dormant e') ∨
      x.entry.holders = [] ∧ x.entry.converts = [] ∧ x.entry.waits = []) : ListsShrink s t := by
  have he (k : Nat) : t.entry k = if k = w then x.entry else s.entry k := by
    rw [State.entry, hw]
    split_ifs <;> rfl
  refine ⟨fun k => ?_, fun k => ?_, fun k => ?_, fun k c h => ?_, fun k e h => ?_,
    fun k c b _ hb _ => ⟨b, by rw [hc, hb], rfl, rfl, rfl⟩⟩
  · rw [he]
    split_ifs with hk
    · rcases hx with ⟨hx, -⟩ | ⟨hx, -⟩ <;> rw [hx]
      exacts [hk ▸ List.Subset.refl _, List.nil_subset _]
    · exact List.Subset.refl _
  · rw [he]
    split_ifs with hk
    · rcases hx with ⟨hx, -⟩ | ⟨-, hx, -⟩ <;> rw [hx]
      exacts [hk ▸ List.Subset.refl _, List.nil_subset _]
    · exact List.Subset.refl _
  · rw [he]
    split_ifs with hk
    · rcases hx with ⟨hx, -⟩ | ⟨-, -, hx⟩ <;> rw [hx]
      exacts [hk ▸ List.Subset.refl _, List.nil_subset _]
    · exact List.Subset.refl _
  · rw [he] at h ⊢
    split_ifs at h ⊢ with hk
    · rcases hx with ⟨hx, -⟩ | ⟨hx, -⟩
      · rw [hx, hk]
      · rw [hx] at h
        cases h
    · rfl
  · rw [hw] at h
    split_ifs at h with hk
    · rcases hx with ⟨-, hx⟩ | hx
      · exact .inl (hk ▸ hx e h)
      · exact .inr (by simpa [h, Way.entry] using hx)
    · exact .inl ⟨e, h⟩

theorem ClaimState.heldMode_ended (x : ClaimState) : x.ended.heldMode = x.heldMode := by cases x <;> rfl

theorem ClaimState.heldMode_atTick (x : ClaimState) (now : Tick) : (x.atTick now).heldMode = x.heldMode := by cases x <;> rfl

theorem listsShrink_modClaim {s : State} (hs : LeasesKept s) (c : Nat) (f : Claim → Claim)
    (hf : ∀ b, (f b).way = b.way ∧ (f b).state.heldMode = b.state.heldMode ∧ (f b).serial = b.serial) :
    ListsShrink s (s.modClaim c f) := by
  refine .of_claims hs (by simp) fun k b hb => ?_
  rw [State.claimAt_modClaim]
  split_ifs with hk
  · rw [← hk, hb]
    exact ⟨f b, rfl, hf b⟩
  · exact ⟨b, hb, rfl, rfl, rfl⟩

theorem listsShrink_endConversion {s : State} (hs : LeasesKept s) (c : Nat) : ListsShrink s (s.endConversion c) := by
  refine .of_updates hs (fun w e => if (s.claimAt c).any fun b => b.way == w && b.state.isConverting then
    { e with converts := e.converts.filter (· != c) } else e) (fun w => ?_) (fun w e => ?_) (fun w e => ?_) (fun w e => ?_)
    (fun w e => ?_) fun w e k b _ _ hb _ => ?_
  · rw [State.way_endConversion]
    split_ifs
    · rfl
    · exact (Way.update_id _).symm
  · split_ifs <;> exact List.Subset.refl _
  · split_ifs
    exacts [List.filter_sublist.subset, List.Subset.refl _]
  · split_ifs <;> exact List.Subset.refl _
  · split_ifs <;> rfl
  · rw [State.claimAt_endConversion]
    split_ifs with hk
    · rw [← hk, hb]
      exact ⟨_, rfl, rfl, b.state.heldMode_ended, rfl⟩
    · exact ⟨b, hb, rfl, rfl, rfl⟩

theorem not_lists_without (c : Nat) (e : Entry) : ¬(e.without c).lists c := by
  simp [Entry.lists, Entry.without]

theorem listsShrink_freeClaim {s : State} (hs : LeasesKept s) (c : Nat) : ListsShrink s (s.freeClaim c) := by
  classical
  refine .of_updates hs (fun w e => if ∃ b, s.claimAt c = some b ∧ b.way = w then e.without c else e) (fun w => ?_)
    (fun w e => ?_) (fun w e => ?_) (fun w e => ?_) (fun w e => ?_) fun w e k b _ hk hb hw => ?_
  · rw [State.way_freeClaim]
    split_ifs
    · rfl
    · exact (Way.update_id _).symm
  · split_ifs
    exacts [List.filter_sublist.subset, List.Subset.refl _]
  · split_ifs
    exacts [List.filter_sublist.subset, List.Subset.refl _]
  · split_ifs
    exacts [List.filter_sublist.subset, List.Subset.refl _]
  · split_ifs <;> rfl
  · rw [State.claimAt_freeClaim]
    split_ifs with hkc
    · subst hkc
      rw [if_pos ⟨b, hb, hw⟩] at hk
      exact absurd hk (not_lists_without k e)
    · exact ⟨b, hb, rfl, rfl, rfl⟩

/-! ### One claim at its entry -/

/-- A claim, new or old, and the entry that it stands at change: it may be added to the lists, where every other holder is
compatible with the mode it holds; and an X that it holds has the serial of the entry. -/
theorem LeasesKept.of_claim {s t : State} {c w : Nat} {b : Claim} (hs : LeasesKept s)
    (hold : ∀ b₀, s.claimAt c = some b₀ → b₀.way = w) (hactive : ∃ e, t.way w = .active e)
    (hclaim : ∀ k, t.claimAt k = if k = c then some b else s.claimAt k) (hway : b.way = w)
    (hother : ∀ k, k ≠ w → t.way k = s.way k)
    (hh : ∀ k ∈ (t.entry w).holders, k = c ∨ k ∈ (s.entry w).holders)
    (hc : ∀ k ∈ (t.entry w).converts, k = c ∨ k ∈ (s.entry w).converts)
    (hq : ∀ k ∈ (t.entry w).waits, k = c ∨ k ∈ (s.entry w).waits)
    (hheld : c ∈ (t.entry w).holders → ∃ m, b.state.heldMode = some m ∧
      (∀ d ∈ (s.entry w).holders, d ≠ c → ∀ x, s.heldMode d = some x → x.compatible m = true) ∧
      (m = .exclusive → b.serial = some (t.entry w).serial))
    (hserial : (t.entry w).serial = (s.entry w).serial ∨
      ∀ d ∈ (s.entry w).holders, d ≠ c → s.heldMode d ≠ some .exclusive) : LeasesKept t := by
  have hentry (k : Nat) (hk : k ≠ w) : t.entry k = s.entry k := by rw [State.entry, hother k hk, State.entry]
  have hnot (k : Nat) (hk : k ≠ w) : ¬(s.entry k).lists c := fun h => by
    obtain ⟨b₀, hb₀, hw₀⟩ := hs.at_way h
    exact hk (hw₀.symm.trans (hold b₀ hb₀))
  have hsame (k d : Nat) (hd : (t.entry k).lists d) (hdc : d ≠ c) : (s.entry k).lists d ∧ t.claimAt d = s.claimAt d := by
    refine ⟨?_, by rw [hclaim, if_neg hdc]⟩
    by_cases hk : k = w
    · subst hk
      exact hd.imp (fun h => (hh d h).resolve_left hdc)
        (Or.imp (fun h => (hc d h).resolve_left hdc) fun h => (hq d h).resolve_left hdc)
    · rwa [hentry k hk] at hd
  have hhere (k : Nat) (hk : (t.entry k).lists c) : k = w := by
    by_contra hne
    rw [hentry k hne] at hk
    exact hnot k hne hk
  have hat (k d : Nat) (hd : (t.entry k).lists d) : ∃ b', t.claimAt d = some b' ∧ b'.way = k := by
    by_cases hdc : d = c
    · subst hdc
      exact ⟨b, by rw [hclaim, if_pos rfl], hway.trans (hhere k hd).symm⟩
    · obtain ⟨hd', he⟩ := hsame k d hd hdc
      rw [he]
      exact hs.at_way hd'
  have hholder (k d : Nat) (hd : d ∈ (t.entry k).holders) (hdc : d ≠ c) : d ∈ (s.entry k).holders := by
    by_cases hk : k = w
    · subst hk
      exact (hh d hd).resolve_left hdc
    · rwa [hentry k hk] at hd
  have hmode (d : Nat) (hdc : d ≠ c) : t.heldMode d = s.heldMode d := by
    rw [State.heldMode, hclaim, if_neg hdc, State.heldMode]
  have hmodec : t.heldMode c = b.state.heldMode := heldMode_of_claimAt (by rw [hclaim, if_pos rfl])
  refine ⟨fun k d hd => ?_, fun k d hd => hat k d (.inr (.inl hd)), fun k d hd => hat k d (.inr (.inr hd)), fun k e he => ?_,
    fun k d d' m m' hd hd' hne hm hm' => ?_, fun k d b' hd hb' hx => ?_⟩
  · by_cases hdc : d = c
    · subst hdc
      obtain rfl := hhere k (.inl hd)
      obtain ⟨m, hm, -⟩ := hheld hd
      exact ⟨b, by rw [hclaim, if_pos rfl], hway, by simp [hm]⟩
    · rw [hclaim, if_neg hdc]
      exact hs.holder k d (hholder k d hd hdc)
  · have hk : k ≠ w := by
      rintro rfl
      obtain ⟨e', he'⟩ := hactive
      rw [he'] at he
      cases he
    exact hs.dormant k e (by rw [← hother k hk, he])
  · have hbeside (d d' : Nat) (m m' : Mode) (hd : d ∈ (t.entry k).holders) (hd' : d' ∈ (t.entry k).holders) (hdc : d = c)
        (hne : d' ≠ d) (hm : t.heldMode d = some m) (hm' : t.heldMode d' = some m') : m'.compatible m = true := by
      subst hdc
      obtain rfl := hhere k (.inl hd)
      obtain ⟨m₀, hm₀, hadm, -⟩ := hheld hd
      obtain rfl : m₀ = m := by simpa [hmodec, hm₀] using hm
      exact hadm d' (hholder k d' hd' hne) hne m' (by rw [← hmode d' hne, hm'])
    by_cases hdc : d = c
    · rw [Mode.compatible_comm]
      exact hbeside d d' m m' hd hd' hdc (Ne.symm hne) hm hm'
    · by_cases hdc' : d' = c
      · exact hbeside d' d m' m hd' hd hdc' hne hm' hm
      · rw [hmode d hdc] at hm
        rw [hmode d' hdc'] at hm'
        exact hs.compatible k d d' m m' (hholder k d hd hdc) (hholder k d' hd' hdc') hne hm hm'
  · by_cases hdc : d = c
    · subst hdc
      obtain rfl := hhere k (.inl hd)
      obtain ⟨m, hm, -, hn⟩ := hheld hd
      obtain rfl : b = b' := by simpa [hclaim] using hb'
      exact hn (by simpa [hx] using hm.symm)
    · rw [hclaim, if_neg hdc] at hb'
      have hkept := hs.serial k d b' (hholder k d hd hdc) hb' hx
      by_cases hk : k = w
      · subst hk
        rcases hserial with h | h
        · rw [h, hkept]
        · exact absurd ((heldMode_of_claimAt hb').trans hx) (h d (hholder k d hd hdc) hdc)
      · rw [hentry k hk, hkept]

/-- Beside holders that admit X there is none (R32). -/
theorem no_exclusive_beside {s : State} {e : Entry} {c : Nat}
    (h : ∀ d ∈ e.holders, d ≠ c → ∀ x, s.heldMode d = some x → x.compatible .exclusive = true) :
    ∀ d ∈ e.holders, d ≠ c → s.heldMode d ≠ some .exclusive := fun d hd hne hx => by
  cases h d hd hne _ hx

/-- A claim, in whatever lists its entry then has it, HELD in a mode that every other holder admits, with the serial that X
draws (R35, R36, R37, R50, R57). -/
theorem LeasesKept.hold {s u : State} {c w : Nat} {m : Mode} {b : Claim} {e : Entry} (hs : LeasesKept s)
    (hold : ∀ b₀, s.claimAt c = some b₀ → b₀.way = w) (hclaim : ∀ k, u.claimAt k = if k = c then some b else s.claimAt k)
    (hway : b.way = w) (hw : ∀ k, u.way k = if k = w then .active e else s.way k)
    (hh : ∀ k ∈ e.holders, k = c ∨ k ∈ (s.entry w).holders) (hc : ∀ k ∈ e.converts, k = c ∨ k ∈ (s.entry w).converts)
    (hq : ∀ k ∈ e.waits, k = c ∨ k ∈ (s.entry w).waits) (hserial : e.serial = (s.entry w).serial)
    (hadm : ∀ d ∈ (s.entry w).holders, d ≠ c → ∀ x, s.heldMode d = some x → x.compatible m = true)
    (hx : m = .exclusive → u.nextSerial ≠ none) : LeasesKept (u.hold c w m) := by
  have huc : u.claimAt c = some b := by rw [hclaim, if_pos rfl]
  have huw : u.way w = .active e := by rw [hw, if_pos rfl]
  have hway' : (u.hold c w m).way w =
      .active { e with serial := if m = .exclusive then u.nextSerial.getD e.serial else e.serial } := by
    rw [State.way_hold, if_pos rfl, huw]
    rfl
  refine hs.of_claim (b := { b with
      state := .held m, serial := if m = .exclusive then u.nextSerial.or b.serial else b.serial }) hold ⟨_, hway'⟩
    (fun k => ?_) hway (fun k hk => ?_) ?_ ?_ ?_ (fun _ => ⟨m, rfl, hadm, fun hm => ?_⟩) ?_
  · rw [State.claimAt_hold]
    by_cases hk : k = c
    · rw [if_pos hk, if_pos hk, huc]
      rfl
    · rw [if_neg hk, if_neg hk, hclaim, if_neg hk]
  · rw [State.way_hold, if_neg hk, hw, if_neg hk]
  · rw [entry_of_active hway']
    exact hh
  · rw [entry_of_active hway']
    exact hc
  · rw [entry_of_active hway']
    exact hq
  · obtain ⟨n, hn⟩ := Option.ne_none_iff_exists'.mp (hx hm)
    rw [entry_of_active hway']
    simp [hm, hn]
  · rw [entry_of_active hway']
    by_cases hm : m = .exclusive
    · subst hm
      exact .inr (no_exclusive_beside hadm)
    · exact .inl (by simp [hm, hserial])

/-! ### Every step -/

theorem mem_or_of_append {l : List Nat} {c : Nat} : ∀ k ∈ l ++ [c], k = c ∨ k ∈ l := fun _ hk =>
  (List.mem_append.mp hk).symm.imp_left List.mem_singleton.mp

theorem LeasesKept.settled {s : State} (hs : LeasesKept s) (w : Nat) : LeasesKept (s.settle w) := by
  have hc (c : Nat) : (s.settle w).claimAt c = s.claimAt c := s.claimAt_settle w c
  have hw := s.way_settle w
  rcases hx : s.way w with _ | e | e <;> simp only [hx] at hw
  · exact hs.shrink (.of_eq hs (fun k => by rw [hw]; split_ifs with h; exacts [h ▸ hx.symm, rfl]) hc)
  · refine hs.shrink (.of_way hw hc ?_)
    rw [entry_of_active hx]
    split_ifs with h hv
    · exact .inr ⟨rfl, rfl, rfl⟩
    · exact .inr h
    · exact .inl ⟨rfl, fun e' he' => by cases he'⟩
  · exact hs.shrink (.of_eq hs (fun k => by rw [hw]; split_ifs with h; exacts [h ▸ hx.symm, rfl]) hc)

theorem way_modEntry_of_active {s : State} {w : Nat} {e : Entry} (h : s.way w = .active e) (f : Entry → Entry) (k : Nat) :
    (s.modEntry w f).way k = if k = w then .active (f e) else s.way k := by
  rw [State.way_modEntry', h]
  rfl

theorem claimAt_eq_ite {s : State} {c : Nat} {b : Claim} (h : s.claimAt c = some b) (k : Nat) :
    s.claimAt k = if k = c then some b else s.claimAt k := by
  split_ifs with hk
  · rw [hk, h]
  · rfl

/-- A claim of the convert or the wait queue of way `w` HELD there, its entry changed by `f`, in a mode that every other holder
admits. -/
theorem LeasesKept.granted {s : State} {c w : Nat} {m : Mode} {b : Claim} (hs : LeasesKept s)
    (hl : (s.entry w).lists c) (hb : s.claimAt c = some b) (f : Entry → Entry)
    (hh : ∀ k ∈ (f (s.entry w)).holders, k = c ∨ k ∈ (s.entry w).holders)
    (hc : (f (s.entry w)).converts ⊆ (s.entry w).converts) (hq : (f (s.entry w)).waits ⊆ (s.entry w).waits)
    (hn : (f (s.entry w)).serial = (s.entry w).serial)
    (hadm : ∀ d ∈ (s.entry w).holders, d ≠ c → ∀ x, s.heldMode d = some x → x.compatible m = true)
    (hx : m = .exclusive → s.nextSerial ≠ none) : LeasesKept ((s.modEntry w f).hold c w m) := by
  obtain ⟨b', hb', hbw⟩ := hs.at_way hl
  obtain rfl : b' = b := by simpa [hb'] using hb
  refine hs.hold (b := b') (fun b₀ h => ?_) (fun k => ?_) hbw (way_modEntry_of_active (hs.active_of_lists hl) f) hh
    (fun k hk => .inr (hc hk)) (fun k hk => .inr (hq hk)) hn hadm (by simpa using hx)
  · rw [hb] at h
    exact Option.some.inj h ▸ hbw
  · rw [State.claimAt_modEntry]
    exact claimAt_eq_ite hb k

theorem LeasesKept.core {s t : State} (h : CoreMove s t) (hs : LeasesKept s) : LeasesKept t := by
  cases h
  case noticed c v => exact hs.shrink (listsShrink_modClaim hs c _ fun _ => ⟨rfl, rfl, rfl⟩)
  case conversionEnded => exact hs.shrink (listsShrink_endConversion hs _)
  case freed => exact hs.shrink (listsShrink_freeClaim hs _)
  case settled => exact hs.settled _
  case valued w f _ =>
    refine hs.shrink (.of_updates hs (fun k e => if k = w then { e with value := f e.value } else e) (fun k => ?_)
      (fun k e => ?_) (fun k e => ?_) (fun k e => ?_) (fun k e => ?_) fun _ _ _ b _ _ hb _ => ⟨b, by simp [hb], rfl, rfl, rfl⟩)
    · rw [State.way_modEntry']
      split_ifs with h
      · rw [h]
      · exact (Way.update_id _).symm
    all_goals split_ifs
    all_goals first | exact List.Subset.refl _ | rfl
  case conversionGranted c w x m wait b rest hq hb hst hadm hx =>
    exact hs.granted (.inr (.inl (by simp [hq]))) hb (fun e => { e with converts := e.converts.filter (· != c) })
      (fun k => .inr) List.filter_sublist.subset (List.Subset.refl _) rfl
      (fun d hd hne => admits_iff.mp hadm d hd (by simpa using hne)) hx
  case waitGranted c w m wait b rest _ hq hb hst hadm hx =>
    exact hs.granted (.inr (.inr (by simp [hq]))) hb
      (fun e => { e with waits := e.waits.filter (· != c), holders := e.holders ++ [c] })
      mem_or_of_append (List.Subset.refl _) List.filter_sublist.subset rfl
      (fun d hd _ => admits_iff.mp hadm d hd (by simp)) hx
  case interrupt => exact hs.shrink (.of_eq hs (fun _ => rfl) fun _ => rfl)
  case choose => exact hs.shrink (.of_eq hs (fun _ => rfl) fun _ => rfl)
  all_goals exact hs.shrink (.of_eq hs (by simp) (by simp))

/-- A claim that stands at a way which is not ACTIVE is in no list, and may change. -/
theorem LeasesKept.of_unlisted {s t : State} {c : Nat} {b : Claim} (hs : LeasesKept s) (hb : s.claimAt c = some b)
    (hn : ∀ e, s.way b.way ≠ .active e) (hw : ∀ k, t.way k = s.way k) (hc : ∀ k, k ≠ c → t.claimAt k = s.claimAt k) :
    LeasesKept t := by
  refine hs.shrink (.of_updates hs (fun _ e => e) (fun w => by rw [hw, Way.update_id]) (fun _ _ => List.Subset.refl _)
    (fun _ _ => List.Subset.refl _) (fun _ _ => List.Subset.refl _) (fun _ _ => rfl) fun w e k b' hact hl hb' hbw => ?_)
  by_cases hk : k = c
  · obtain rfl : b = b' := by simpa [← hk, hb'] using hb.symm
    exact absurd hact (hbw ▸ hn e)
  · exact ⟨b', by rw [hc k hk, hb'], rfl, rfl, rfl⟩

theorem Way.update_of_inactive {x : Way} (h : ∀ e, x ≠ .active e) (f : Entry → Entry) : x.update f = x := by
  cases x with
  | active e => exact absurd rfl (h e)
  | free => rfl
  | dormant e => rfl

/-- What a holder holds is compatible with every other holder, and X carries the entry's serial (R32, R109). -/
theorem LeasesKept.of_holder {s : State} {w c : Nat} {b : Claim} {m : Mode} (hs : LeasesKept s) (h : c ∈ (s.entry w).holders)
    (hb : s.claimAt c = some b) (hm : b.state.heldMode = some m) :
    (∀ d ∈ (s.entry w).holders, d ≠ c → ∀ x, s.heldMode d = some x → x.compatible m = true) ∧
      (m = .exclusive → b.serial = some (s.entry w).serial) :=
  ⟨fun d hd hne x hx => hs.compatible w d c x m hd h hne hx ((heldMode_of_claimAt hb).trans hm),
    fun hm' => hs.serial w c b h hb (hm' ▸ hm)⟩

/-- The grant at arrival of an ACQUIRE (R50). -/
theorem LeasesKept.grantedAtOnce {s : State} {c i w : Nat} {m : Mode} {e : Entry} (hs : LeasesKept s) (hc : s.claimAt c = none)
    (hw : s.way w = .active e) (hadm : s.admits e m none = true) (hx : m = .exclusive → s.nextSerial ≠ none) :
    LeasesKept ((s.allocate c i w (.held m)).hold c w m) := by
  have he := entry_of_active hw
  refine hs.hold (c := c) (w := w) (by simp [hc]) (State.claimAt_allocate _ _ _ _ · _) rfl
    (e := { e with holders := e.holders ++ [c] }) (fun k => ?_) ?_ ?_ ?_ ?_ ?_ (by simpa using hx)
  · rw [State.way_allocate, hw]
    rfl
  · exact he ▸ mem_or_of_append
  · exact he ▸ fun _ => .inr
  · exact he ▸ fun _ => .inr
  · rw [he]
  · exact he ▸ fun d hd _ => admits_iff.mp hadm d hd (by simp)

/-- An ACQUIRE made to wait (R51). -/
theorem LeasesKept.queued {s : State} {c i w : Nat} {m : Mode} {wait : Wait} {e : Entry} (hs : LeasesKept s)
    (hc : s.claimAt c = none) (hw : s.way w = .active e) : LeasesKept (s.allocate c i w (.waiting m wait)) := by
  have he := entry_of_active hw
  have hway : (s.allocate c i w (.waiting m wait)).way w = .active { e with waits := e.waits ++ [c] } := by
    rw [State.way_allocate, if_pos rfl, hw]
    rfl
  refine hs.of_claim (c := c) (w := w) (by simp [hc]) ⟨_, hway⟩ (State.claimAt_allocate _ _ _ _ · _) rfl
    (fun k hk => by rw [State.way_allocate, if_neg hk]) ?_ ?_ ?_ (fun h => ?_) ?_
  all_goals rw [entry_of_active hway, he] at *
  · exact fun _ => .inr
  · exact fun _ => .inr
  · exact mem_or_of_append
  · obtain ⟨b, hb, -⟩ := hs.holder w c (by rw [entry_of_active hw]; exact h)
    rw [hc] at hb
    cases hb
  · exact .inl rfl

/-- An upgrade granted at arrival (R57). -/
theorem LeasesKept.upgraded {s : State} {c w : Nat} {m : Mode} {b : Claim} (hs : LeasesKept s) (hb : s.claimAt c = some b)
    (hbw : b.way = w) (hadm : s.admits (s.entry w) m (some c) = true) (hx : m = .exclusive → s.nextSerial ≠ none) :
    LeasesKept (s.hold c w m) := by
  subst hbw
  by_cases hact : ∃ e, s.way b.way = .active e
  · obtain ⟨e, he⟩ := hact
    refine hs.hold (c := c) (fun b₀ h => ?_) (claimAt_eq_ite hb) rfl (fun k => ?_) (e := e) ?_ ?_ ?_ ?_
      (fun d hd hne => admits_iff.mp hadm d hd (by simpa using hne)) hx
    · rw [hb] at h
      exact Option.some.inj h ▸ rfl
    · split_ifs with hk
      exacts [hk ▸ he, rfl]
    all_goals rw [entry_of_active he]
    all_goals exact fun _ => .inr
  · have hn : ∀ e, s.way b.way ≠ .active e := fun e he => hact ⟨e, he⟩
    refine hs.of_unlisted hb hn (fun k => ?_) fun k hk => by rw [State.claimAt_hold, if_neg hk]
    rw [State.way_hold, Way.update_of_inactive hn]
    split_ifs with hk
    exacts [hk ▸ rfl, rfl]

/-- A downgrade (R56). -/
theorem LeasesKept.downgraded {s : State} {c : Nat} {m x : Mode} {b : Claim} (hs : LeasesKept s) (hb : s.claimAt c = some b)
    (hst : b.state = .held x) (hk : conversionKind x m = .downgrade) :
    LeasesKept (s.modClaim c fun y => { y with state := .held m }) := by
  have hclaim (k : Nat) : (s.modClaim c fun y => { y with state := .held m }).claimAt k =
      if k = c then some { b with state := .held m } else s.claimAt k := by
    rw [State.claimAt_modClaim, hb]
    rfl
  by_cases hact : ∃ e, s.way b.way = .active e
  · obtain ⟨e, he⟩ := hact
    refine hs.of_claim (c := c) (w := b.way) (fun b₀ h => ?_) ⟨e, by simpa using he⟩ hclaim rfl (by simp) ?_ ?_ ?_
      (fun h => ⟨m, rfl, ?_, ?_⟩) (.inl (by simp))
    · rw [hb] at h
      exact Option.some.inj h ▸ rfl
    · simpa using fun _ => .inr
    · simpa using fun _ => .inr
    · simpa using fun _ => .inr
    · obtain ⟨hcomp, -⟩ := hs.of_holder (by simpa using h) hb (by rw [hst]; rfl)
      exact fun d hd hne y hy => Mode.compatible_downgrade hk (hcomp d hd hne y hy)
    · exact fun hm => absurd hm (downgrade_ne_exclusive hk)
  · exact hs.of_unlisted hb (fun e he => hact ⟨e, he⟩) (by simp) fun k hk => by rw [hclaim, if_neg hk]

/-- An upgrade made to wait (R57). -/
theorem LeasesKept.converts {s : State} {c w : Nat} {m x : Mode} {b : Claim} (hs : LeasesKept s) (wait : Wait)
    (hb : s.claimAt c = some b) (hbw : b.way = w) (hst : b.state = .held x) :
    LeasesKept ((s.modClaim c fun y => { y with state := .converting x m wait }).modEntry w fun e =>
      { e with converts := e.converts ++ [c] }) := by
  subst hbw
  have hclaim (f : Entry → Entry) (k : Nat) :
      ((s.modClaim c fun y => { y with state := .converting x m wait }).modEntry b.way f).claimAt k =
      if k = c then some { b with state := .converting x m wait } else s.claimAt k := by
    rw [State.claimAt_modEntry, State.claimAt_modClaim, hb]
    rfl
  by_cases hact : ∃ e, s.way b.way = .active e
  · obtain ⟨e, he⟩ := hact
    have hway (k : Nat) := way_modEntry_of_active
      (s := s.modClaim c fun y => { y with state := .converting x m wait }) (by simpa using he)
      (fun e => { e with converts := e.converts ++ [c] }) k
    refine hs.of_claim (c := c) (w := b.way) (fun b₀ h => ?_) ⟨_, by rw [hway, if_pos rfl]⟩ (hclaim _) rfl
      (fun k hk => by simpa [hk] using hway k) ?_ ?_ ?_ (fun h => ⟨x, rfl, ?_⟩) ?_
    · rw [hb] at h
      exact Option.some.inj h ▸ rfl
    all_goals rw [entry_of_active ((hway b.way).trans (if_pos rfl))] at *
    all_goals rw [entry_of_active he]
    · exact fun _ => .inr
    · exact mem_or_of_append
    · exact fun _ => .inr
    · have := hs.of_holder (w := b.way) (by rw [entry_of_active he]; exact h) hb (m := x) (by rw [hst]; rfl)
      rwa [entry_of_active he] at this
    · exact .inl rfl
  · have hn : ∀ e, s.way b.way ≠ .active e := fun e he => hact ⟨e, he⟩
    refine hs.of_unlisted hb hn (fun k => ?_) fun k hk => by rw [hclaim, if_neg hk]
    rw [State.way_modEntry', State.way_modClaim, State.way_modClaim, Way.update_of_inactive hn]
    split_ifs with hk
    exacts [hk ▸ rfl, rfl]

theorem LeasesKept.move {allow : Nat → ChanState → ChanState → Prop} {own : Nat → Prop} {s t : State}
    (h : Move allow own s t) (hs : LeasesKept s) : LeasesKept t := by
  cases h
  case core h => exact hs.core h
  case grantedAtOnce hc _ _ _ _ hw hadm _ hx => exact hs.grantedAtOnce hc hw hadm hx
  case queued hc _ _ _ _ hw _ => exact hs.queued hc hw
  case upgradedAtOnce hb hbw _ hadm hx => exact hs.upgraded hb hbw hadm hx
  case downgraded hb hst hk => exact hs.downgraded hb hst hk
  case converting wait hb hbw hst _ => exact hs.converts wait hb hbw hst
  case created => exact hs.shrink (.of_way (State.way_createAt _ _ · _) (by simp) (.inr ⟨rfl, rfl, rfl⟩))
  case evicted w k _ _ _ =>
    refine hs.shrink (.of_way (w := w) (x := .active { Entry.blank with key := k }) (fun j => ?_) (by simp) (.inr ⟨rfl, rfl, rfl⟩))
    rw [State.way_createAt, State.way_leaveDormant]
    split_ifs <;> rfl
  case discarded => exact hs.shrink (.of_way (State.way_leaveDormant _ _ · _) (by simp) (.inr ⟨rfl, rfl, rfl⟩))
  case reactivated hw =>
    exact hs.shrink (.of_way (State.way_leaveDormant _ _ · _) (by simp) (.inr (hs.dormant _ _ hw)))
  case teardownReply => exact hs.shrink (.of_eq hs (fun _ => rfl) fun _ => rfl)
  case registers => exact hs.shrink (.of_eq hs (fun _ => rfl) fun _ => rfl)
  case requestPeriod => exact hs.shrink (.of_eq hs (fun _ => rfl) fun _ => rfl)
  all_goals exact hs.shrink (.of_eq hs (by simp) (by simp))

theorem LeasesKept.moves {allow : Nat → ChanState → ChanState → Prop} {own : Nat → Prop} {s t : State}
    (h : Moves allow own s t) (hs : LeasesKept s) : LeasesKept t := by
  induction h with
  | refl => exact hs
  | tail _ h ih => exact ih.move h

theorem claimAt_tickOnce (s : State) (c : Nat) : s.tickOnce.claimAt c =
    (s.claimAt c).map fun b => { b with state := b.state.atTick (s.now + 1) } := by
  rw [State.claimAt, State.claim, State.tickOnce, Table.get_map _ _ rfl]
  rfl

theorem LeasesKept.tick {s : State} (hs : LeasesKept s) : LeasesKept s.tickOnce := by
  refine hs.shrink (.of_claims hs (fun _ => rfl) fun c b hb => ?_)
  rw [claimAt_tickOnce, hb]
  exact ⟨_, rfl, rfl, ClaimState.heldMode_atTick .., rfl⟩

theorem LeasesKept.cleared (s : State) (ready : Bool) : LeasesKept (s.cleared ready) :=
  reset_leasesKept.shrink (.of_eq reset_leasesKept (fun _ => rfl) fun _ => rfl)

theorem LeasesKept.exec {c : Instr} {s t : State} (h : exec c s = .next t) (hs : LeasesKept s) : LeasesKept t := by
  by_cases htick : c = .tick
  · subst htick
    cases h
    split_ifs
    · exact hs.tick
    · exact hs
  by_cases hreset : c = .deviceReset
  · subst hreset
    cases h
    exact .cleared ..
  by_cases hstart : c = .startupEnd
  · subst hstart
    cases h
    split_ifs
    · exact hs
    · exact .cleared ..
  exact hs.moves (exec_moves h htick hreset hstart)

/-- Settles O54: a grant finds every other holder compatible, X none, and all other moves take claims off the lists or keep what
they hold. -/
theorem leasesKeptByStep : Obligations.LeasesKeptByStep := by
  intro s t hs h
  unfold step at h
  split at h
  · exact LeasesKept.exec h (hs.shrink (.of_eq hs (fun _ => rfl) fun _ => rfl))
  · cases h
    exact hs

end Sys2Proof.Machine
end

section
/-! PROOFS. The claims in use stand where their states call for (R24, R80): the lists of sessions and entries as exactly the claims of
those states, changes of one claim, and what a lapse, a close and a teardown leave. -/

namespace Sys2Proof.Machine

/-! ### Where a claim stands -/

/-- Where a claim stands: its session, its way, whether it holds a mode and whether it wants one. -/
structure Spot where
  session : Nat
  way : Nat
  held : Bool
  wanted : Bool

def Claim.spot (b : Claim) : Spot := ⟨b.session, b.way, b.state.heldMode.isSome, b.state.wantedMode.isSome⟩

@[simp] theorem Claim.spot_session (b : Claim) : b.spot.session = b.session := rfl

@[simp] theorem Claim.spot_way (b : Claim) : b.spot.way = b.way := rfl

def State.spot (s : State) (c : Nat) : Option Spot := (s.claimAt c).map Claim.spot

/-- The entry of an ACTIVE way; a blank one for any other. -/
def Way.standing : Way → Entry
  | .active e => e
  | .free => Entry.blank
  | .dormant _ => Entry.blank

def State.standing (s : State) (w : Nat) : Entry := (s.way w).standing

def Entry.empty (e : Entry) : Prop := e.holders = [] ∧ e.converts = [] ∧ e.waits = []

/-- The lists hold exactly the claims whose spots call for it, each once; a claim whose session is in `gone` need not stand in a
session's list (R24, R80). -/
structure Placed (gone : Nat → Prop) (s : State) : Prop where
  owner : ∀ c p, s.spot c = some p → ¬gone p.session → c ∈ (s.session p.session).claims
  owned : ∀ i c, c ∈ (s.session i).claims → ∃ p, s.spot c = some p ∧ p.session = i
  holders : ∀ w c, c ∈ (s.standing w).holders ↔ ∃ p, s.spot c = some p ∧ p.way = w ∧ p.held = true
  converts : ∀ w c, c ∈ (s.standing w).converts ↔ ∃ p, s.spot c = some p ∧ p.way = w ∧ p.held = true ∧ p.wanted = true
  waits : ∀ w c, c ∈ (s.standing w).waits ↔ ∃ p, s.spot c = some p ∧ p.way = w ∧ p.held = false
  dormant : ∀ w e, s.way w = .dormant e → e.empty
  ownedOnce : ∀ i, (s.session i).claims.Nodup
  listedOnce : ∀ w, (s.standing w).holders.Nodup ∧ (s.standing w).converts.Nodup ∧ (s.standing w).waits.Nodup
  single : ∀ c c' p p', s.spot c = some p → s.spot c' = some p' → p.session = p'.session → p.way = p'.way → c = c'
  pool : ∀ c p, s.spot c = some p → c < 32768

theorem spot_of_claimAt {s : State} {c : Nat} {b : Claim} (h : s.claimAt c = some b) : s.spot c = some b.spot := by
  rw [State.spot, h]
  rfl

theorem claimAt_of_spot {s : State} {c : Nat} {p : Spot} (h : s.spot c = some p) :
    ∃ b, s.claimAt c = some b ∧ b.spot = p := by
  simpa [State.spot] using h

theorem standing_of_active {s : State} {w : Nat} {e : Entry} (h : s.way w = .active e) : s.standing w = e := by
  rw [State.standing, h]
  rfl

theorem SessionRec.mem_claims {r : SessionRec} {c : Nat} : c ∈ r.claims ↔ ∃ o, r.state = .opened o ∧ c ∈ o.claims := by
  rw [SessionRec.claims]
  rcases r.state with _ | o | l <;> simp

theorem SessionRec.claims_of_opened {r : SessionRec} {o : OpenSession} (h : r.state = .opened o) : r.claims = o.claims := by
  rw [SessionRec.claims, h]

theorem entry_of_standing {s : State} {w : Nat} (hd : ∀ e, s.way w = .dormant e → e.empty) :
    (s.entry w).holders = (s.standing w).holders ∧ (s.entry w).converts = (s.standing w).converts ∧
      (s.entry w).waits = (s.standing w).waits := by
  rw [State.entry, State.standing]
  rcases hw : s.way w with _ | e | e
  · exact ⟨rfl, rfl, rfl⟩
  · exact ⟨rfl, rfl, rfl⟩
  · obtain ⟨h1, h2, h3⟩ := hd e hw
    exact ⟨h1, h2, h3⟩

theorem ClaimsPlaced.placed {s : State} (h : ClaimsPlaced s) : Placed (fun _ => False) s := by
  have hd (w : Nat) (e : Entry) (hw : s.way w = .dormant e) : e.empty := by
    have hnone (c : Nat) : ¬e.lists c := fun hl => by
      obtain ⟨b, hb, rfl⟩ := h.listed w c (by rw [entry_of_dormant hw]; exact hl)
      obtain ⟨e', he', -⟩ := h.place c b hb
      rw [he'] at hw
      cases hw
    exact ⟨List.eq_nil_iff_forall_not_mem.mpr fun c hc => hnone c (.inl hc),
      List.eq_nil_iff_forall_not_mem.mpr fun c hc => hnone c (.inr (.inl hc)),
      List.eq_nil_iff_forall_not_mem.mpr fun c hc => hnone c (.inr (.inr hc))⟩
  have hat (c : Nat) (b : Claim) (hb : s.claimAt c = some b) :
      (c ∈ (s.standing b.way).holders ↔ b.spot.held = true) ∧
      (c ∈ (s.standing b.way).converts ↔ b.spot.held = true ∧ b.spot.wanted = true) ∧
      (c ∈ (s.standing b.way).waits ↔ b.spot.held = false) := by
    obtain ⟨e, he, h1, h2, h3⟩ := h.place c b hb
    rw [standing_of_active he]
    simpa [Claim.spot, Option.isSome_iff_ne_none] using ⟨h1, h2, h3⟩
  have hlisted (w c : Nat) (hl : (s.standing w).lists c) : ∃ b, s.claimAt c = some b ∧ b.way = w := by
    obtain ⟨h1, h2, h3⟩ := entry_of_standing (hd w)
    exact h.listed w c (by rw [h1, h2, h3]; exact hl)
  refine ⟨fun c p hp _ => ?_, fun i c hc => ?_, fun w c => ⟨fun hc => ?_, ?_⟩, fun w c => ⟨fun hc => ?_, ?_⟩,
    fun w c => ⟨fun hc => ?_, ?_⟩, hd, fun i => ?_, fun w => ?_, fun c c' p p' hp hp' hs hw => ?_, fun c p hp => ?_⟩
  · obtain ⟨b, hb, rfl⟩ := claimAt_of_spot hp
    exact SessionRec.mem_claims.mpr (h.owner c b hb)
  · obtain ⟨o, ho, hc⟩ := SessionRec.mem_claims.mp hc
    obtain ⟨b, hb, hi⟩ := h.owned i o c ho hc
    exact ⟨_, spot_of_claimAt hb, hi⟩
  · obtain ⟨b, hb, rfl⟩ := hlisted w c (.inl hc)
    exact ⟨_, spot_of_claimAt hb, rfl, (hat c b hb).1.mp hc⟩
  · rintro ⟨p, hp, rfl, hx⟩
    obtain ⟨b, hb, rfl⟩ := claimAt_of_spot hp
    exact (hat c b hb).1.mpr hx
  · obtain ⟨b, hb, rfl⟩ := hlisted w c (.inr (.inl hc))
    exact ⟨_, spot_of_claimAt hb, rfl, (hat c b hb).2.1.mp hc⟩
  · rintro ⟨p, hp, rfl, hx⟩
    obtain ⟨b, hb, rfl⟩ := claimAt_of_spot hp
    exact (hat c b hb).2.1.mpr hx
  · obtain ⟨b, hb, rfl⟩ := hlisted w c (.inr (.inr hc))
    exact ⟨_, spot_of_claimAt hb, rfl, (hat c b hb).2.2.mp hc⟩
  · rintro ⟨p, hp, rfl, hx⟩
    obtain ⟨b, hb, rfl⟩ := claimAt_of_spot hp
    exact (hat c b hb).2.2.mpr hx
  · rw [SessionRec.claims]
    rcases ho : (s.session i).state with _ | o | l
    exacts [List.nodup_nil, h.ownedOnce i o ho, List.nodup_nil]
  · obtain ⟨h1, h2, h3⟩ := entry_of_standing (hd w)
    rw [← h1, ← h2, ← h3]
    exact h.listedOnce w
  · obtain ⟨b, hb, rfl⟩ := claimAt_of_spot hp
    obtain ⟨b', hb', rfl⟩ := claimAt_of_spot hp'
    exact h.single c c' b b' hb hb' hs hw
  · obtain ⟨b, hb, -⟩ := claimAt_of_spot hp
    exact h.pool c b hb

theorem Placed.claimsPlaced {s : State} (h : Placed (fun _ => False) s) : ClaimsPlaced s := by
  have hactive (w c : Nat) (hl : (s.standing w).lists c) : ∃ e, s.way w = .active e := by
    rw [State.standing] at hl
    rcases hw : s.way w with _ | e | e <;> simp [hw, Way.standing, Entry.blank, Entry.lists] at hl ⊢
  refine ⟨fun c b hb => ?_, fun c b hb => ?_, fun i o c ho hc => ?_, fun w c hl => ?_, fun i o ho => ?_, fun w => ?_,
    fun c c' b b' hb hb' hs hw => ?_, fun c b hb => ?_⟩
  · exact SessionRec.mem_claims.mp (h.owner c _ (spot_of_claimAt hb) id)
  · have hp := spot_of_claimAt hb
    have hstands : (s.standing b.way).lists c := by
      rcases hh : b.spot.held
      · exact .inr (.inr ((h.waits _ _).mpr ⟨_, hp, rfl, hh⟩))
      · exact .inl ((h.holders _ _).mpr ⟨_, hp, rfl, hh⟩)
    obtain ⟨e, he⟩ := hactive _ _ hstands
    have h1 := h.holders b.way c
    have h2 := h.converts b.way c
    have h3 := h.waits b.way c
    simp only [standing_of_active he, hp, Option.some.injEq, exists_eq_left', Claim.spot, true_and,
      Option.isSome_iff_ne_none, Option.isSome_eq_false_iff, Option.isNone_iff_eq_none] at h1 h2 h3
    exact ⟨e, he, h1, h2, h3⟩
  · obtain ⟨p, hp, rfl⟩ := h.owned i c (SessionRec.mem_claims.mpr ⟨o, ho, hc⟩)
    obtain ⟨b, hb, rfl⟩ := claimAt_of_spot hp
    exact ⟨b, hb, rfl⟩
  · obtain ⟨h1, h2, h3⟩ := entry_of_standing (h.dormant w)
    rw [h1, h2, h3] at hl
    rcases hl with hl | hl | hl
    · obtain ⟨p, hp, rfl, -⟩ := (h.holders w c).mp hl
      obtain ⟨b, hb, rfl⟩ := claimAt_of_spot hp
      exact ⟨b, hb, rfl⟩
    · obtain ⟨p, hp, rfl, -⟩ := (h.converts w c).mp hl
      obtain ⟨b, hb, rfl⟩ := claimAt_of_spot hp
      exact ⟨b, hb, rfl⟩
    · obtain ⟨p, hp, rfl, -⟩ := (h.waits w c).mp hl
      obtain ⟨b, hb, rfl⟩ := claimAt_of_spot hp
      exact ⟨b, hb, rfl⟩
  · exact SessionRec.claims_of_opened ho ▸ h.ownedOnce i
  · obtain ⟨h1, h2, h3⟩ := entry_of_standing (h.dormant w)
    rw [h1, h2, h3]
    exact h.listedOnce w
  · exact h.single c c' _ _ (spot_of_claimAt hb) (spot_of_claimAt hb') hs hw
  · exact h.pool c _ (spot_of_claimAt hb)

/-! ### Changes that leave every claim where it stands -/

/-- Every claim keeps its spot, and the lists hold what they held. -/
structure SamePlaces (s t : State) : Prop where
  spot : ∀ c, t.spot c = s.spot c
  claims : ∀ i, (t.session i).claims = (s.session i).claims
  standing : ∀ w, (t.standing w).holders = (s.standing w).holders ∧ (t.standing w).converts = (s.standing w).converts ∧
    (t.standing w).waits = (s.standing w).waits
  dormant : ∀ w e, t.way w = .dormant e → (∀ e', s.way w = .dormant e' → e'.empty) → e.empty

theorem Placed.of_same {gone : Nat → Prop} {s t : State} (hs : Placed gone s) (h : SamePlaces s t) : Placed gone t := by
  have hh (w : Nat) := (h.standing w).1
  have hc (w : Nat) := (h.standing w).2.1
  have hq (w : Nat) := (h.standing w).2.2
  constructor
  case dormant => exact fun w e hw => h.dormant w e hw (hs.dormant w)
  all_goals simp only [h.spot, h.claims, hh, hc, hq]
  exacts [hs.owner, hs.owned, hs.holders, hs.converts, hs.waits, hs.ownedOnce, hs.listedOnce, hs.single, hs.pool]

/-- The ways stay as they were. -/
theorem SamePlaces.of_ways {s t : State} (hw : ∀ w, t.way w = s.way w) (hspot : ∀ c, t.spot c = s.spot c)
    (hclaims : ∀ i, (t.session i).claims = (s.session i).claims) : SamePlaces s t :=
  ⟨hspot, hclaims, fun w => by rw [State.standing, hw]; exact ⟨rfl, rfl, rfl⟩, fun w e he hd => hd e (by rw [← hw, he])⟩

/-- The tables of claims, sessions and ways stay as they were. -/
def SameTables (s t : State) : Prop := t.claims = s.claims ∧ t.sessions = s.sessions ∧ t.ways = s.ways

theorem SameTables.samePlaces {s t : State} (h : SameTables s t) : SamePlaces s t := by
  obtain ⟨hc, hi, hw⟩ := h
  refine .of_ways (fun w => ?_) (fun c => ?_) fun i => ?_
  · rw [State.way, hw, State.way]
  · rw [State.spot, claimAt_eq_of_claims hc, State.spot]
  · rw [State.session, hi, State.session]

/-- Claims and sessions stay, and way `w` becomes one with the same lists. -/
theorem SamePlaces.of_way {s t : State} {w : Nat} {x : Way} (hw : ∀ k, t.way k = if k = w then x else s.way k)
    (hc : ∀ c, t.claimAt c = s.claimAt c) (hi : ∀ i, t.session i = s.session i)
    (hx : x.standing.holders = (s.standing w).holders ∧ x.standing.converts = (s.standing w).converts ∧
      x.standing.waits = (s.standing w).waits) (hd : ∀ e, x = .dormant e → e.empty) : SamePlaces s t := by
  refine ⟨fun c => by rw [State.spot, hc, State.spot], fun i => by rw [hi], fun k => ?_, fun k e he h => ?_⟩
  · rw [State.standing, hw]
    split_ifs with hk
    · exact hk ▸ hx
    · exact ⟨rfl, rfl, rfl⟩
  · rw [hw] at he
    split_ifs at he
    · exact hd e he
    · exact h e he

/-! ### One claim -/

/-- Claim `c` comes to spot `p`, or goes: the lists change by that claim only. -/
theorem Placed.of_spot {gone : Nat → Prop} {s t : State} (hs : Placed gone s) (c : Nat) (p : Option Spot)
    (hspot : ∀ k, t.spot k = if k = c then p else s.spot k)
    (hclaims : ∀ i k, k ≠ c → (k ∈ (t.session i).claims ↔ k ∈ (s.session i).claims))
    (howner : ∀ q, p = some q → ¬gone q.session → c ∈ (t.session q.session).claims)
    (howned : ∀ i, c ∈ (t.session i).claims → ∃ q, p = some q ∧ q.session = i)
    (hh : ∀ w k, k ∈ (t.standing w).holders ↔
      if k = c then ∃ q, p = some q ∧ q.way = w ∧ q.held = true else k ∈ (s.standing w).holders)
    (hc : ∀ w k, k ∈ (t.standing w).converts ↔
      if k = c then ∃ q, p = some q ∧ q.way = w ∧ q.held = true ∧ q.wanted = true else k ∈ (s.standing w).converts)
    (hq : ∀ w k, k ∈ (t.standing w).waits ↔
      if k = c then ∃ q, p = some q ∧ q.way = w ∧ q.held = false else k ∈ (s.standing w).waits)
    (hdormant : ∀ w e, t.way w = .dormant e → e.empty) (hownedOnce : ∀ i, (t.session i).claims.Nodup)
    (hlistedOnce : ∀ w, (t.standing w).holders.Nodup ∧ (t.standing w).converts.Nodup ∧ (t.standing w).waits.Nodup)
    (hsingle : ∀ q, p = some q → ∀ k q', k ≠ c → s.spot k = some q' → q'.session = q.session → q'.way ≠ q.way)
    (hpool : ∀ q, p = some q → c < 32768) : Placed gone t := by
  refine ⟨fun k q hk hg => ?_, fun i k hk => ?_, fun w k => ?_, fun w k => ?_, fun w k => ?_, hdormant, hownedOnce,
    hlistedOnce, fun k k' q q' hk hk' hi hw => ?_, fun k q hk => ?_⟩
  · rw [hspot] at hk
    split_ifs at hk with h
    · exact h ▸ howner q hk hg
    · exact (hclaims _ k h).mpr (hs.owner k q hk hg)
  · rw [hspot]
    split_ifs with h
    · exact howned i (h ▸ hk)
    · exact hs.owned i k ((hclaims i k h).mp hk)
  · rw [hh, hspot]
    split_ifs
    exacts [Iff.rfl, hs.holders w k]
  · rw [hc, hspot]
    split_ifs
    exacts [Iff.rfl, hs.converts w k]
  · rw [hq, hspot]
    split_ifs
    exacts [Iff.rfl, hs.waits w k]
  · rw [hspot] at hk hk'
    split_ifs at hk hk' with h h' h'
    · rw [h, h']
    · exact absurd hw.symm (hsingle q hk k' q' h' hk' hi.symm)
    · exact absurd hw (hsingle q' hk' k q h hk hi)
    · exact hs.single k k' q q' hk hk' hi hw
  · rw [hspot] at hk
    split_ifs at hk with h
    · exact h ▸ hpool q hk
    · exact hs.pool k q hk

/-- Claim `c` comes to spot `q`, and the lists of its way change by it only. -/
theorem Placed.stands {gone : Nat → Prop} {s t : State} {c : Nat} {q : Spot} {e : Entry} (hs : Placed gone s)
    (hspot : ∀ k, t.spot k = if k = c then some q else s.spot k)
    (hclaims : ∀ i k, k ≠ c → (k ∈ (t.session i).claims ↔ k ∈ (s.session i).claims))
    (howner : ¬gone q.session → c ∈ (t.session q.session).claims)
    (howned : ∀ i, c ∈ (t.session i).claims → q.session = i)
    (hno : ∀ w, w ≠ q.way → ¬(s.standing w).lists c)
    (hstanding : ∀ w, t.standing w = if w = q.way then e else s.standing w)
    (hh : ∀ k, k ∈ e.holders ↔ if k = c then q.held = true else k ∈ (s.standing q.way).holders)
    (hc : ∀ k, k ∈ e.converts ↔ if k = c then q.held = true ∧ q.wanted = true else k ∈ (s.standing q.way).converts)
    (hq : ∀ k, k ∈ e.waits ↔ if k = c then q.held = false else k ∈ (s.standing q.way).waits)
    (hdormant : ∀ w e, t.way w = .dormant e → e.empty) (hownedOnce : ∀ i, (t.session i).claims.Nodup)
    (hnodup : e.holders.Nodup ∧ e.converts.Nodup ∧ e.waits.Nodup)
    (hsingle : ∀ k p, k ≠ c → s.spot k = some p → p.session = q.session → p.way ≠ q.way) (hpool : c < 32768) :
    Placed gone t := by
  have hlist (sel : Entry → List Nat) (R : Spot → Prop) (hno : ∀ w, w ≠ q.way → c ∉ sel (s.standing w))
      (hsel : ∀ k, k ∈ sel e ↔ if k = c then R q else k ∈ sel (s.standing q.way)) (w k : Nat) :
      k ∈ sel (t.standing w) ↔ if k = c then ∃ x, some q = some x ∧ x.way = w ∧ R x else k ∈ sel (s.standing w) := by
    rw [hstanding]
    by_cases hw : w = q.way
    · subst hw
      rw [if_pos rfl, hsel]
      simp
    · rw [if_neg hw]
      by_cases hk : k = c
      · subst hk
        simp [hno w hw, Ne.symm hw]
      · simp [hk]
  refine hs.of_spot c (some q) hspot hclaims (fun x hx hg => ?_) (fun i hi => ⟨q, rfl, howned i hi⟩)
    (hlist _ (fun x => x.held = true) (fun w hw h => hno w hw (.inl h)) hh)
    (hlist _ (fun x => x.held = true ∧ x.wanted = true) (fun w hw h => hno w hw (.inr (.inl h))) hc)
    (hlist _ (fun x => x.held = false) (fun w hw h => hno w hw (.inr (.inr h))) hq)
    hdormant hownedOnce (fun w => ?_) (fun x hx k p hk hp hi => ?_) fun _ _ => hpool
  · cases hx
    exact howner hg
  · rw [hstanding]
    split_ifs
    exacts [hnodup, hs.listedOnce w]
  · cases hx
    exact hsingle k p hk hp hi

/-- A claim stands in the lists of its way only. -/
theorem Placed.not_lists {gone : Nat → Prop} {s : State} (hs : Placed gone s) {c w : Nat}
    (h : ∀ p, s.spot c = some p → p.way ≠ w) : ¬(s.standing w).lists c := by
  rintro (hl | hl | hl)
  · obtain ⟨p, hp, hw, -⟩ := (hs.holders w c).mp hl
    exact h p hp hw
  · obtain ⟨p, hp, hw, -⟩ := (hs.converts w c).mp hl
    exact h p hp hw
  · obtain ⟨p, hp, hw, -⟩ := (hs.waits w c).mp hl
    exact h p hp hw

/-- Claim `c` keeps its session and its way and changes what it holds and wants. -/
theorem Placed.respot {gone : Nat → Prop} {s t : State} {c : Nat} {p : Spot} {held wanted : Bool} {e : Entry}
    (hs : Placed gone s) (hp : s.spot c = some p)
    (hspot : ∀ k, t.spot k = if k = c then some ⟨p.session, p.way, held, wanted⟩ else s.spot k)
    (hclaims : ∀ i, (t.session i).claims = (s.session i).claims)
    (hstanding : ∀ w, t.standing w = if w = p.way then e else s.standing w)
    (hh : ∀ k, k ∈ e.holders ↔ if k = c then held = true else k ∈ (s.standing p.way).holders)
    (hc : ∀ k, k ∈ e.converts ↔ if k = c then held = true ∧ wanted = true else k ∈ (s.standing p.way).converts)
    (hq : ∀ k, k ∈ e.waits ↔ if k = c then held = false else k ∈ (s.standing p.way).waits)
    (hdormant : ∀ w e, t.way w = .dormant e → e.empty) (hnodup : e.holders.Nodup ∧ e.converts.Nodup ∧ e.waits.Nodup) :
    Placed gone t := by
  have huniq (p' : Spot) (hp' : s.spot c = some p') : p = p' := by simpa [hp'] using hp.symm
  refine hs.stands hspot (fun i k _ => by rw [hclaims]) (fun hg => ?_) (fun i hi => ?_)
    (fun w hw => hs.not_lists fun p' hp' h => hw (huniq p' hp' ▸ h.symm)) hstanding hh hc hq hdormant
    (fun i => by rw [hclaims]; exact hs.ownedOnce i) hnodup (fun k p' hk hp' hi hw => hk (hs.single k c p' p hp' hp hi hw))
    (hs.pool c p hp)
  · rw [hclaims]
    exact hs.owner c p hp hg
  · rw [hclaims] at hi
    obtain ⟨p', hp', rfl⟩ := hs.owned i c hi
    rw [huniq p' hp']

/-- Claim `c` goes: every list loses it and no other claim (R28). -/
theorem Placed.removed {gone : Nat → Prop} {s t : State} {c : Nat} (hs : Placed gone s)
    (hspot : ∀ k, t.spot k = if k = c then none else s.spot k)
    (hclaims : ∀ i, (t.session i).claims = (s.session i).claims.filter (· != c))
    (hh : ∀ w, (t.standing w).holders = (s.standing w).holders.filter (· != c))
    (hc : ∀ w, (t.standing w).converts = (s.standing w).converts.filter (· != c))
    (hq : ∀ w, (t.standing w).waits = (s.standing w).waits.filter (· != c))
    (hdormant : ∀ w e, t.way w = .dormant e → e.empty) : Placed gone t := by
  have hmem (l : List Nat) (k : Nat) : k ∈ l.filter (· != c) ↔ if k = c then False else k ∈ l := by
    by_cases hk : k = c <;> simp [hk]
  refine hs.of_spot c none hspot (fun i k hk => ?_) (fun _ h => by cases h) (fun i hi => ?_) (fun w k => ?_) (fun w k => ?_)
    (fun w k => ?_) hdormant (fun i => ?_) (fun w => ?_) (fun _ h => by cases h) fun _ h => by cases h
  · rw [hclaims, hmem, if_neg hk]
  · rw [hclaims, hmem, if_pos rfl] at hi
    exact hi.elim
  · rw [hh, hmem]
    simp
  · rw [hc, hmem]
    simp
  · rw [hq, hmem]
    simp
  · rw [hclaims]
    exact (hs.ownedOnce i).filter _
  · obtain ⟨h1, h2, h3⟩ := hs.listedOnce w
    rw [hh, hc, hq]
    exact ⟨h1.filter _, h2.filter _, h3.filter _⟩

/-! ### Core moves -/

theorem Way.standing_update (x : Way) {f : Entry → Entry} (hf : f Entry.blank = Entry.blank) :
    (x.update f).standing = f x.standing := by
  cases x with
  | active e => rfl
  | free => exact hf.symm
  | dormant e => exact hf.symm

theorem filter_ne_of_not_mem {l : List Nat} {c : Nat} (h : c ∉ l) : l.filter (· != c) = l :=
  List.filter_eq_self.mpr fun k hk => by simpa using fun he : k = c => h (he ▸ hk)

section
variable {gone : Nat → Prop} {s : State}

theorem Placed.freed (hs : Placed gone s) (c : Nat) : Placed gone (s.freeClaim c) := by
  have hstanding (w : Nat) : ((s.freeClaim c).standing w) =
      { s.standing w with
        holders := (s.standing w).holders.filter (· != c), converts := (s.standing w).converts.filter (· != c)
        waits := (s.standing w).waits.filter (· != c) } := by
    rw [State.standing, State.way_freeClaim]
    split_ifs with h
    · exact Way.standing_update _ rfl
    · have hnot : ¬(s.standing w).lists c := hs.not_lists fun p hp hw => h (by
        obtain ⟨b, hb, rfl⟩ := claimAt_of_spot hp
        exact ⟨b, hb, hw⟩)
      simp only [Entry.lists, not_or] at hnot
      obtain ⟨h1, h2, h3⟩ := hnot
      rw [filter_ne_of_not_mem h1, filter_ne_of_not_mem h2, filter_ne_of_not_mem h3]
      rfl
  refine hs.removed (fun k => ?_) (fun i => ?_) (fun w => by rw [hstanding]) (fun w => by rw [hstanding])
    (fun w => by rw [hstanding]) fun w e he => ?_
  · rw [State.spot, State.claimAt_freeClaim]
    split_ifs <;> rfl
  · rw [State.session_freeClaim]
    split_ifs with h
    · rcases hr : (s.session i).state with _ | o | l <;> simp [SessionRec.claims, hr]
    · refine (filter_ne_of_not_mem fun hc => h ?_).symm
      obtain ⟨p, hp, hi⟩ := hs.owned i c hc
      obtain ⟨b, hb, rfl⟩ := claimAt_of_spot hp
      exact ⟨b, hb, hi⟩
  · rw [State.way_freeClaim] at he
    split_ifs at he
    · exact hs.dormant w e (Way.update_eq_dormant.mp he)
    · exact hs.dormant w e he

theorem SamePlaces.modClaim (s : State) (c : Nat) (f : Claim → Claim)
    (hf : ∀ b, s.claimAt c = some b → (f b).spot = b.spot) : SamePlaces s (s.modClaim c f) := by
  refine .of_ways (by simp) (fun k => ?_) (by simp)
  rw [State.spot, State.claimAt_modClaim, State.spot]
  split_ifs with hk
  · rw [hk]
    rcases hb : s.claimAt c with _ | b
    · rfl
    · exact congrArg some (hf b hb)
  · rfl

theorem Placed.settled (hs : Placed gone s) (w : Nat) : Placed gone (s.settle w) := by
  have hw := s.way_settle w
  have hc := s.claimAt_settle w
  have hi := s.session_settle w
  rcases hx : s.way w with _ | e | e <;> simp only [hx] at hw
  · exact hs.of_same (.of_way hw hc hi (by rw [State.standing, hx]; exact ⟨rfl, rfl, rfl⟩) fun e h => by cases h)
  · refine hs.of_same (.of_way hw hc hi ?_ fun e' h => ?_)
    · rw [standing_of_active hx]
      split_ifs with h hv
      · exact ⟨h.1.symm, h.2.1.symm, h.2.2.symm⟩
      · exact ⟨h.1.symm, h.2.1.symm, h.2.2.symm⟩
      · exact ⟨rfl, rfl, rfl⟩
    · split_ifs at h with hempty hv
      cases h
      exact hempty
  · refine hs.of_same (.of_way hw hc hi (by rw [State.standing, hx]; exact ⟨rfl, rfl, rfl⟩) fun e' h => ?_)
    cases h
    exact hs.dormant w e hx

theorem Placed.valued (hs : Placed gone s) (w : Nat) (f : ValueBlock → ValueBlock) :
    Placed gone (s.modEntry w fun e => { e with value := f e.value }) := by
  refine hs.of_same (.of_way (State.way_modEntry' _ _ · _) (by simp) (by simp) ?_ fun e he => ?_)
  · rw [State.standing]
    rcases s.way w with _ | e | e <;> exact ⟨rfl, rfl, rfl⟩
  · exact hs.dormant w e (Way.update_eq_dormant.mp he)

theorem mem_filter_ne {l : List Nat} {c k : Nat} : k ∈ l.filter (· != c) ↔ if k = c then False else k ∈ l := by
  by_cases hk : k = c <;> simp [hk]

theorem mem_append_self {l : List Nat} {c k : Nat} : k ∈ l ++ [c] ↔ if k = c then True else k ∈ l := by
  by_cases hk : k = c <;> simp [hk]

theorem nodup_append_self {l : List Nat} {c : Nat} (h : l.Nodup) (hc : c ∉ l) : (l ++ [c]).Nodup :=
  h.append (List.nodup_singleton c) (by simpa using hc)

/-- What a claim's own lists say of it. -/
theorem Placed.mem_standing (hs : Placed gone s) {c : Nat} {p : Spot} (hp : s.spot c = some p) :
    (c ∈ (s.standing p.way).holders ↔ p.held = true) ∧
      (c ∈ (s.standing p.way).converts ↔ p.held = true ∧ p.wanted = true) ∧
      (c ∈ (s.standing p.way).waits ↔ p.held = false) := by
  rw [hs.holders, hs.converts, hs.waits, hp]
  simp

theorem mem_ite_self {P : Prop} {c k : Nat} {l : List Nat} (h : c ∈ l ↔ P) : k ∈ l ↔ if k = c then P else k ∈ l := by
  split_ifs with hk
  · rw [hk, h]
  · rfl

theorem Placed.conversionEnded (hs : Placed gone s) (c : Nat) : Placed gone (s.endConversion c) := by
  by_cases hconv : ∃ b, s.claimAt c = some b ∧ b.state.isConverting = true
  · obtain ⟨b, hb, hst⟩ := hconv
    have hp := spot_of_claimAt hb
    obtain ⟨x, m, wait, hx⟩ : ∃ x m wait, b.state = .converting x m wait := by
      rcases hx : b.state with ⟨m, wait⟩ | m | ⟨x, m, wait⟩
      · rw [hx] at hst; cases hst
      · rw [hx] at hst; cases hst
      · exact ⟨x, m, wait, rfl⟩
    obtain ⟨h1, h2, h3⟩ := hs.mem_standing hp
    obtain ⟨hh, hc, hq⟩ := hs.listedOnce b.way
    have hheld : b.spot.held = true := by simp [Claim.spot, hx, ClaimState.heldMode]
    rw [hheld] at h1 h3
    refine hs.respot hp (held := true) (wanted := false) (fun k => ?_) (by simp)
      (e := { s.standing b.way with converts := (s.standing b.way).converts.filter (· != c) }) (fun w => ?_)
      (fun k => ?_) (fun k => ?_) (fun k => ?_) (fun w e he => ?_) ⟨hh, hc.filter _, hq⟩
    · rw [State.spot, State.claimAt_endConversion, hb]
      split_ifs
      · simp [Claim.spot, hx, ClaimState.ended, ClaimState.heldMode, ClaimState.wantedMode]
      · rfl
    · rw [State.standing, State.way_endConversion]
      by_cases hw : w = b.way
      · rw [if_pos (by simp [hb, hst, hw]), if_pos (show w = b.spot.way from hw), Way.standing_update _ rfl, hw]
        rfl
      · rw [if_neg (by simp [hb, Ne.symm hw]), if_neg (show w ≠ b.spot.way from hw)]
        rfl
    · exact mem_ite_self (h1.trans (by simp))
    · simpa using mem_filter_ne (l := (s.standing b.way).converts)
    · exact mem_ite_self (h3.trans (by simp))
    · rw [State.way_endConversion] at he
      split_ifs at he
      · exact hs.dormant w e (Way.update_eq_dormant.mp he)
      · exact hs.dormant w e he
  · refine hs.of_same (.of_ways (fun w => ?_) (fun k => ?_) (by simp))
    · rw [State.way_endConversion, if_neg]
      rcases hb : s.claimAt c with _ | b
      · simp
      · simp only [Option.any_some, Bool.and_eq_true]
        exact fun h => hconv ⟨b, hb, h.2⟩
    · rw [State.spot, State.claimAt_endConversion, State.spot]
      split_ifs with hk
      · rw [hk]
        rcases hb : s.claimAt c with _ | b
        · rfl
        · rcases hx : b.state with ⟨m, wait⟩ | m | ⟨x, m, wait⟩
          · simp [Claim.spot, ClaimState.ended, hx]
          · simp [Claim.spot, ClaimState.ended, hx]
          · exact absurd ⟨b, hb, by rw [hx]; rfl⟩ hconv
      · rfl

theorem Placed.active (hs : Placed gone s) {c : Nat} {p : Spot} (hp : s.spot c = some p) : ∃ e, s.way p.way = .active e := by
  obtain ⟨h1, -, h3⟩ := hs.mem_standing hp
  have hl : c ∈ (s.standing p.way).holders ∨ c ∈ (s.standing p.way).waits := by
    rw [h1, h3]
    rcases p.held <;> simp
  rw [State.standing] at hl
  rcases hw : s.way p.way with _ | e | e <;> simp [hw, Way.standing, Entry.blank] at hl ⊢

/-- A claim HELD with its entry changed by `f`, which adds it to the holders if it is not one of them and takes it off the queues
(R35, R36). -/
theorem Placed.granted (hs : Placed gone s) {c w : Nat} {b : Claim} (m : Mode) (f : Entry → Entry) (hb : s.claimAt c = some b)
    (hw : b.way = w) (hh : ∀ k, k ∈ (f (s.standing w)).holders ↔ if k = c then True else k ∈ (s.standing w).holders)
    (hc : (f (s.standing w)).converts = (s.standing w).converts.filter (· != c))
    (hq : (f (s.standing w)).waits = (s.standing w).waits.filter (· != c)) (hnodup : (f (s.standing w)).holders.Nodup) :
    Placed gone ((s.modEntry w f).hold c w m) := by
  subst hw
  have hp := spot_of_claimAt hb
  obtain ⟨e, he⟩ : ∃ e, s.way b.way = .active e := hs.active hp
  have hse : s.standing b.way = e := standing_of_active he
  rw [hse] at hh hc hq hnodup
  obtain ⟨-, hcn, hqn⟩ := hs.listedOnce b.way
  rw [hse] at hcn hqn
  have hway (k : Nat) : ∃ n, ((s.modEntry b.way f).hold c b.way m).way k =
      if k = b.way then .active { f e with serial := n } else s.way k := by
    refine ⟨if m = .exclusive then s.nextSerial.getD (f e).serial else (f e).serial, ?_⟩
    rw [State.way_hold, way_modEntry_of_active he, way_modEntry_of_active he, if_pos rfl, State.modEntry_nextSerial]
    split_ifs <;> rfl
  refine hs.respot hp (held := true) (wanted := false) (fun k => ?_) (by simp)
    (e := ((s.modEntry b.way f).hold c b.way m).standing b.way) (fun w => ?_) ?_ ?_ ?_ (fun w e' he' => ?_) ?_
  · rw [State.spot, State.claimAt_hold, State.claimAt_modEntry, State.claimAt_modEntry, hb]
    split_ifs <;> rfl
  · obtain ⟨n, hn⟩ := hway w
    rw [State.standing, hn]
    by_cases h : w = b.way
    · subst h
      rw [if_pos (show b.way = b.spot.way from rfl), State.standing, hn]
    · rw [if_neg h, if_neg (show w ≠ b.spot.way from h)]
      rfl
  case refine_6 =>
    obtain ⟨n, hn⟩ := hway w
    rw [hn] at he'
    split_ifs at he'
    exact hs.dormant w e' he'
  all_goals
    obtain ⟨n, hn⟩ := hway b.way
    rw [standing_of_active (hn.trans (if_pos rfl))]
  · intro k
    rw [b.spot_way, hse]
    simpa using hh k
  · intro k
    rw [b.spot_way, hse]
    simpa [hc] using mem_filter_ne (l := e.converts) (c := c) (k := k)
  · intro k
    rw [b.spot_way, hse]
    simpa [hq] using mem_filter_ne (l := e.waits) (c := c) (k := k)
  · exact ⟨hnodup, hc ▸ hcn.filter _, hq ▸ hqn.filter _⟩

theorem Placed.conversionGranted (hs : Placed gone s) {c w : Nat} {m : Mode} {b : Claim} {rest : List Nat}
    (hq : (s.entry w).converts = c :: rest) (hb : s.claimAt c = some b) :
    Placed gone ((s.modEntry w fun e => { e with converts := e.converts.filter (· != c) }).hold c w m) := by
  have hmem : c ∈ (s.standing w).converts := by
    rw [← (entry_of_standing (hs.dormant w)).2.1, hq]
    exact List.mem_cons_self
  obtain ⟨p, hp, hw, hheld, -⟩ := (hs.converts w c).mp hmem
  obtain rfl : b.spot = p := by simpa [spot_of_claimAt hb] using hp
  obtain ⟨h1, -, h3⟩ := hs.mem_standing hp
  rw [hw] at h1 h3
  refine hs.granted m _ hb hw (fun k => mem_ite_self (by rw [h1, hheld]; simp)) rfl ?_ (hs.listedOnce w).1
  exact (filter_ne_of_not_mem (by rw [h3, hheld]; simp)).symm

theorem Placed.waitGranted (hs : Placed gone s) {c w : Nat} {m : Mode} {b : Claim} {rest : List Nat}
    (hq : (s.entry w).waits = c :: rest) (hb : s.claimAt c = some b) :
    Placed gone ((s.modEntry w fun e =>
      { e with waits := e.waits.filter (· != c), holders := e.holders ++ [c] }).hold c w m) := by
  have hmem : c ∈ (s.standing w).waits := by
    rw [← (entry_of_standing (hs.dormant w)).2.2, hq]
    exact List.mem_cons_self
  obtain ⟨p, hp, hw, hheld⟩ := (hs.waits w c).mp hmem
  obtain rfl : b.spot = p := by simpa [spot_of_claimAt hb] using hp
  obtain ⟨h1, h2, -⟩ := hs.mem_standing hp
  rw [hw] at h1 h2
  have hnot : c ∉ (s.standing w).holders := by rw [h1, hheld]; simp
  refine hs.granted m _ hb hw (fun k => mem_append_self) ?_ rfl (nodup_append_self (hs.listedOnce w).1 hnot)
  exact (filter_ne_of_not_mem (by rw [h2, hheld]; simp)).symm

theorem claims_markLapse (s : State) (n : Notice) (v : Bool) (i : Nat) :
    ((s.markLapse n v).session i).claims = (s.session i).claims := by
  unfold State.markLapse
  split
  · split
    · rename_i j _ _ _ _ _ l hl
      rw [State.session_setSession]
      split_ifs with hi
      · simp [SessionRec.claims, hi, hl]
      · rfl
    · rfl
    · rfl
  · rfl
  · rfl

theorem Placed.coreMove {t : State} (hs : Placed gone s) (h : CoreMove s t) : Placed gone t := by
  cases h
  case noticed c v => exact hs.of_same (.modClaim s c _ fun _ _ => rfl)
  case conversionGranted hq hb _ _ _ => exact hs.conversionGranted hq hb
  case waitGranted _ hq hb _ _ _ => exact hs.waitGranted hq hb
  case conversionEnded => exact hs.conversionEnded _
  case freed => exact hs.freed _
  case settled => exact hs.settled _
  case valued => exact hs.valued _ _
  case mark n v => exact hs.of_same (.of_ways (by simp) (by simp [State.spot]) (claims_markLapse s n v))
  case unpend i l hl =>
    refine hs.of_same (.of_ways (by simp) (by simp [State.spot]) fun j => ?_)
    rw [State.session_setSession]
    split_ifs with hj
    · simp [SessionRec.claims, hj, hl]
    · rfl
  all_goals exact hs.of_same (SameTables.samePlaces ⟨by simp, by simp, by simp⟩)

theorem Placed.core {t : State} (hs : Placed gone s) (h : Core s t) : Placed gone t := by
  induction h with
  | refl => exact hs
  | tail _ h ih => exact ih.coreMove h

end

end Sys2Proof.Machine
end

section
/-! PROOFS. Every step keeps the claims in use placed (R24, R80): the changes that requests make, what a lapse, a close and a teardown
leave, and the commands. -/

namespace Sys2Proof.Machine

/-- Every claim in use is placed, those of every session in its list. -/
abbrev AllPlaced (s : State) : Prop := Placed (fun _ => False) s

/-! ### Changes of sessions and ways -/

section
variable {s : State}

theorem SamePlaces.setSession {i : Nat} {r : SessionRec} (h : r.claims = (s.session i).claims) :
    SamePlaces s (s.setSession i r) := by
  refine .of_ways (by simp) (by simp [State.spot]) fun j => ?_
  rw [State.session_setSession]
  split_ifs with hj
  · rw [h, hj]
  · rfl

theorem claims_of_free {r : SessionRec} (h : r.state = .free) : r.claims = [] := by rw [SessionRec.claims, h]

theorem claims_of_lapsed {r : SessionRec} {l : LapsedSession} (h : r.state = .lapsed l) : r.claims = [] := by
  rw [SessionRec.claims, h]

theorem samePlaces_renew (s : State) (i : Nat) : SamePlaces s (s.renew i) := by
  refine .of_ways (by simp) (by simp [State.spot]) fun j => ?_
  rw [State.renew, State.session_modOpen]
  split_ifs with hj
  · rcases hi : (s.session i).state with _ | o | l <;> simp [SessionRec.claims, hj, hi]
  · rfl

theorem samePlaces_freeSession {i : Nat} (h : (s.session i).claims = []) : SamePlaces s (s.freeSession i) :=
  .setSession h.symm

/-- A claim that holds its mode already, HELD in another (R56, R57). -/
theorem samePlaces_hold {c w : Nat} {m x : Mode} {b : Claim} (hb : s.claimAt c = some b) (hst : b.state = .held x) :
    SamePlaces s (s.hold c w m) := by
  have hway (k : Nat) : ∃ n : Entry → Serial, (s.hold c w m).way k = (s.way k).update fun e => { e with serial := n e } := by
    rw [State.way_hold]
    by_cases hk : k = w
    · rw [if_pos hk, hk]
      exact ⟨_, rfl⟩
    · rw [if_neg hk]
      exact ⟨fun e => e.serial, (Way.update_id _).symm⟩
  refine ⟨fun k => ?_, fun i => by simp, fun k => ?_, fun k e he h => ?_⟩
  · rw [State.spot, State.claimAt_hold, State.spot]
    by_cases hk : k = c
    · rw [if_pos hk, hk, hb]
      simp [Claim.spot, hst, ClaimState.heldMode, ClaimState.wantedMode]
    · rw [if_neg hk]
  · obtain ⟨n, hn⟩ := hway k
    rw [State.standing, hn, State.standing]
    rcases s.way k with _ | e | e <;> exact ⟨rfl, rfl, rfl⟩
  · obtain ⟨n, hn⟩ := hway k
    rw [hn] at he
    exact h e (Way.update_eq_dormant.mp he)

theorem AllPlaced.converting (hs : AllPlaced s) {c w : Nat} {x m : Mode} {b : Claim} (wait : Wait) (hb : s.claimAt c = some b)
    (hw : b.way = w) (hst : b.state = .held x) :
    AllPlaced ((s.modClaim c fun y => { y with state := .converting x m wait }).modEntry w fun e =>
      { e with converts := e.converts ++ [c] }) := by
  subst hw
  have hp := spot_of_claimAt hb
  obtain ⟨e, he⟩ : ∃ e, s.way b.way = .active e := Placed.active hs hp
  have hse : s.standing b.spot.way = e := standing_of_active he
  obtain ⟨h1, h2, h3⟩ := Placed.mem_standing hs hp
  obtain ⟨hh, hc, hq⟩ := hs.listedOnce b.spot.way
  rw [hse] at h1 h2 h3 hh hc hq
  have hheld : b.spot.held = true := by simp [Claim.spot, hst, ClaimState.heldMode]
  have hwanted : b.spot.wanted = false := by simp [Claim.spot, hst, ClaimState.wantedMode]
  have hway (k : Nat) := way_modEntry_of_active
    (s := s.modClaim c fun y => { y with state := .converting x m wait }) (by simpa using he)
    (fun e => { e with converts := e.converts ++ [c] }) k
  refine Placed.respot hs hp (held := true) (wanted := true) (fun k => ?_) (by simp)
    (e := { e with converts := e.converts ++ [c] }) (fun w => ?_) ?_ ?_ ?_ (fun w e' he' => ?_) ?_
  · rw [State.spot, State.claimAt_modEntry, State.claimAt_modClaim, hb]
    split_ifs
    · simp [Claim.spot, ClaimState.heldMode, ClaimState.wantedMode]
    · rfl
  · rw [State.standing, hway, b.spot_way]
    split_ifs
    · rfl
    · rw [State.way_modClaim]
      rfl
  · rw [hse]
    exact fun k => mem_ite_self (by rw [h1, hheld])
  · rw [hse]
    simpa using fun k => mem_append_self (l := e.converts) (c := c) (k := k)
  · rw [hse]
    exact fun k => mem_ite_self (by rw [h3, hheld])
  · rw [hway] at he'
    split_ifs at he'
    exact hs.dormant w e' (by simpa using he')
  · exact ⟨hh, nodup_append_self hc (by rw [h2, hwanted]; simp), hq⟩

/-- A free record allocated to a session that has no claim at the way (R26, R49). -/
theorem AllPlaced.allocated (hs : AllPlaced s) {c i w : Nat} {st : ClaimState} {o : OpenSession} {e : Entry}
    (hc : s.claimAt c = none) (hlt : c < 32768) (ho : (s.session i).state = .opened o) (hw : s.way w = .active e)
    (hsingle : ∀ k p, s.spot k = some p → p.session = i → p.way ≠ w) (hst : st.isConverting = false) :
    AllPlaced (s.allocate c i w st) := by
  have hspot : s.spot c = none := by rw [State.spot, hc]; rfl
  have hnot (w : Nat) : ¬(s.standing w).lists c := Placed.not_lists hs fun p hp => by rw [hspot] at hp; cases hp
  have hnotin (j : Nat) : c ∉ (s.session j).claims := fun hj => by
    obtain ⟨p, hp, -⟩ := hs.owned j c hj
    rw [hspot] at hp
    cases hp
  have hclaims (j : Nat) : ((s.allocate c i w st).session j).claims =
      if j = i then (s.session j).claims ++ [c] else (s.session j).claims := by
    rw [State.session_allocate, ho]
    split_ifs with hj
    · rw [hj, SessionRec.claims_of_opened ho]
      rfl
    · rfl
  obtain ⟨e', he', hh, hcv, hq⟩ : ∃ e', (s.allocate c i w st).way w = .active e' ∧
      e'.holders = (if st.heldMode.isSome then e.holders ++ [c] else e.holders) ∧ e'.converts = e.converts ∧
      e'.waits = if st.heldMode.isSome then e.waits else e.waits ++ [c] := by
    rw [State.way_allocate, if_pos rfl, hw]
    by_cases hheld : st.heldMode.isSome = true
    · simp only [hheld, if_true]
      exact ⟨_, rfl, rfl, rfl, rfl⟩
    · simp only [hheld]
      exact ⟨_, rfl, rfl, rfl, rfl⟩
  have hother (k : Nat) (hk : k ≠ w) : (s.allocate c i w st).way k = s.way k := by rw [State.way_allocate, if_neg hk]
  have hwanted : ¬(st.heldMode.isSome = true ∧ st.wantedMode.isSome = true) := by
    rcases st with ⟨m, wait⟩ | m | ⟨x, m, wait⟩
    · simp [ClaimState.heldMode]
    · simp [ClaimState.wantedMode]
    · cases hst
  have hse := standing_of_active hw
  obtain ⟨n1, n2, n3⟩ := hs.listedOnce w
  have hnotw := hnot w
  simp only [Entry.lists, not_or, hse] at hnotw n1 n2 n3
  obtain ⟨c1, c2, c3⟩ := hnotw
  refine Placed.stands hs (c := c) (q := ⟨i, w, st.heldMode.isSome, st.wantedMode.isSome⟩) (e := e') (fun k => ?_)
    (fun j k hk => ?_) (fun _ => ?_) (fun j hj => ?_) (fun v _ => hnot v) (fun v => ?_) (fun k => ?_) (fun k => ?_)
    (fun k => ?_) (fun v e'' h => ?_) (fun j => ?_) ⟨?_, ?_, ?_⟩ (fun k p _ hp hi => hsingle k p hp hi) hlt
  · rw [State.spot, State.claimAt_allocate]
    split_ifs <;> rfl
  · rw [hclaims]
    split_ifs <;> simp [hk]
  · rw [hclaims, if_pos rfl]
    simp
  · rw [hclaims] at hj
    split_ifs at hj with h
    · exact h.symm
    · exact absurd hj (hnotin j)
  · rw [State.standing]
    by_cases h : v = w
    · rw [h, he', if_pos rfl]
      rfl
    · rw [hother v h, if_neg h]
      rfl
  · rw [hse, hh]
    split_ifs with h1 h2 h2 <;> simp_all
  · rw [hse, hcv]
    split_ifs with h1 <;> simp_all
  · rw [hse, hq]
    split_ifs with h1 h2 h2 <;> simp_all
  · by_cases h' : v = w
    · rw [h', he'] at h
      cases h
    · exact hs.dormant v e'' (hother v h' ▸ h)
  · rw [hclaims]
    split_ifs
    · exact nodup_append_self (hs.ownedOnce j) (hnotin j)
    · exact hs.ownedOnce j
  · rw [hh]
    split_ifs
    exacts [nodup_append_self n1 c1, n1]
  · rw [hcv]
    exact n2
  · rw [hq]
    split_ifs
    exacts [n3, nodup_append_self n3 c3]

/-! ### Where an ACQUIRE is taken (R10 to R13) -/

theorem standing_of_dormant {w : Nat} {e : Entry} (h : s.way w = .dormant e) : s.standing w = Entry.blank := by
  rw [State.standing, h]
  rfl

theorem standing_of_free {w : Nat} (h : s.way w = .free) : s.standing w = Entry.blank := by
  rw [State.standing, h]
  rfl

/-- A way that is not ACTIVE has no claim. -/
theorem AllPlaced.way_ne (hs : AllPlaced s) {w c : Nat} {p : Spot} (hw : (s.way w).wayState ≠ .active) (hp : s.spot c = some p) :
    p.way ≠ w := by
  rintro rfl
  obtain ⟨e, he⟩ := Placed.active hs hp
  rw [he] at hw
  exact hw rfl

theorem AllPlaced.reactivated (hs : AllPlaced s) {w : Nat} {e : Entry} (hw : s.way w = .dormant e) :
    AllPlaced (s.leaveDormant w (.active e)) := by
  refine Placed.of_same hs (.of_way (State.way_leaveDormant _ _ · _) (by simp) (by simp) ?_ fun e' h => by cases h)
  rw [standing_of_dormant hw]
  exact hs.dormant w e hw

theorem AllPlaced.discarded (hs : AllPlaced s) {w : Nat} {e : Entry} (hw : s.way w = .dormant e) :
    AllPlaced (s.leaveDormant w .free) := by
  refine Placed.of_same hs (.of_way (State.way_leaveDormant _ _ · _) (by simp) (by simp) ?_ fun e' h => by cases h)
  rw [standing_of_dormant hw]
  exact ⟨rfl, rfl, rfl⟩

theorem AllPlaced.created (hs : AllPlaced s) {w : Nat} (k : Key) (hw : s.way w = .free) : AllPlaced (s.createAt w k) := by
  refine Placed.of_same hs (.of_way (State.way_createAt _ _ · _) (by simp) (by simp) ?_ fun e' h => by cases h)
  rw [standing_of_free hw]
  exact ⟨rfl, rfl, rfl⟩

/-- The key of an ACQUIRE whose session has no claim on it is placed where the session has none. -/
theorem AllPlaced.place (hs : AllPlaced s) (hr : ResourcesKept s) {k : Key} {w i : Nat} {t : State}
    (h : s.place k = some (w, t)) (ha : s.alreadyClaimed i k = false) :
    AllPlaced t ∧ ∀ c p, t.spot c = some p → p.session = i → p.way ≠ w := by
  have hspot (c : Nat) : t.spot c = s.spot c := by
    rw [State.spot, State.place_frame s h]
    rfl
  simp only [hspot]
  unfold State.place at h
  split at h
  · rename_i hl
    rcases lookup_way hl with ⟨e, he, hk⟩ | ⟨e, he, hk⟩
    · rw [he] at h
      cases h
      refine ⟨hs, fun c p hp hi hw => ?_⟩
      obtain ⟨b, hb, rfl⟩ := claimAt_of_spot hp
      have hmem : c ∈ (s.session i).claims := hi ▸ hs.owner c _ hp id
      have : s.alreadyClaimed i k = true := by
        refine List.any_eq_true.mpr ⟨c, hmem, ?_⟩
        rw [hb]
        simp [← hk, ← entry_of_active he, ← hw]
      rw [ha] at this
      cases this
    · rw [he] at h
      cases h
      exact ⟨hs.reactivated he, fun c p hp _ => hs.way_ne (by simp [he, Way.wayState]) hp⟩
  · split at h
    · rename_i hf
      have hfree : s.way w = .free := by
        cases h
        simpa using List.find?_some hf
      cases h
      exact ⟨hs.created k hfree, fun c p hp _ => hs.way_ne (by simp [hfree, Way.wayState]) hp⟩
    · split at h
      · rename_i hd
        cases h
        obtain ⟨-, hdorm⟩ := (hr.order k.bucket w).mp (hd ▸ List.mem_cons_self)
        obtain ⟨e, he⟩ : ∃ e, s.way w = .dormant e := by
          rcases hw : s.way w with _ | e | e <;> simp [hw, Way.wayState] at hdorm ⊢
        refine ⟨(hs.discarded he).created k ?_, fun c p hp _ => hs.way_ne (by simp [he, Way.wayState]) hp⟩
        rw [State.way_leaveDormant, if_pos rfl]
      · cases h

/-! ### Lapse, close and teardown -/

/-- What core moves leave of a claim: its session and its way, and its state, but that a wait may end. -/
def Claim.remains (b₀ b : Claim) : Prop := b.session = b₀.session ∧ b.way = b₀.way ∧ (b.state = b₀.state ∨ b.state.wait = none)

theorem remains_refl (b : Claim) : b.remains b := ⟨rfl, rfl, .inl rfl⟩

theorem remains_trans {a b c : Claim} (h : a.remains b) (h' : b.remains c) : a.remains c := by
  obtain ⟨h1, h2, h3⟩ := h
  obtain ⟨h1', h2', h3'⟩ := h'
  refine ⟨h1'.trans h1, h2'.trans h2, ?_⟩
  rcases h3' with h3' | h3'
  · rw [h3']
    exact h3
  · exact .inr h3'

/-- A claim of `t` that is a claim of `s` changed by `f`, if it is `c`. -/
theorem origin_of_map {t : State} {c k : Nat} {f : Claim → Claim} {b : Claim} (hb : t.claimAt k = some b)
    (h : t.claimAt k = if k = c then (s.claimAt c).map f else s.claimAt k) (hf : ∀ b : Claim, b.remains (f b)) :
    ∃ b₀, s.claimAt k = some b₀ ∧ b₀.remains b := by
  rw [hb] at h
  split_ifs at h with hk
  · obtain ⟨b₀, hb₀, rfl⟩ := Option.map_eq_some_iff.mp h.symm
    exact ⟨b₀, hk ▸ hb₀, hf b₀⟩
  · exact ⟨b, h.symm, remains_refl b⟩

theorem ClaimState.wait_ended (x : ClaimState) : x.ended = x ∨ x.ended.wait = none := by
  cases x
  · exact .inl rfl
  · exact .inl rfl
  · exact .inr rfl

theorem coreMove_origin {t : State} (h : CoreMove s t) {c : Nat} {b : Claim} (hb : t.claimAt c = some b) :
    ∃ b₀, s.claimAt c = some b₀ ∧ b₀.remains b := by
  cases h
  case noticed => exact origin_of_map hb (State.claimAt_modClaim ..) fun _ => ⟨rfl, rfl, .inl rfl⟩
  case conversionGranted =>
    obtain ⟨b₀, hb₀, h⟩ := origin_of_map hb (State.claimAt_hold ..) fun _ => ⟨rfl, rfl, .inr rfl⟩
    exact ⟨b₀, by simpa using hb₀, h⟩
  case waitGranted =>
    obtain ⟨b₀, hb₀, h⟩ := origin_of_map hb (State.claimAt_hold ..) fun _ => ⟨rfl, rfl, .inr rfl⟩
    exact ⟨b₀, by simpa using hb₀, h⟩
  case conversionEnded =>
    exact origin_of_map hb (State.claimAt_endConversion ..) fun b => ⟨rfl, rfl, b.state.wait_ended⟩
  case freed =>
    rw [State.claimAt_freeClaim] at hb
    split_ifs at hb
    exact ⟨b, hb, remains_refl b⟩
  case interrupt => exact ⟨b, hb, remains_refl b⟩
  case choose => exact ⟨b, hb, remains_refl b⟩
  all_goals exact ⟨b, by simpa using hb, remains_refl b⟩

/-- Every claim was one before core moves. -/
theorem core_origin {t : State} (h : Core s t) {c : Nat} {b : Claim} (hb : t.claimAt c = some b) :
    ∃ b₀, s.claimAt c = some b₀ ∧ b₀.remains b := by
  induction h generalizing b with
  | refl => exact ⟨b, hb, remains_refl b⟩
  | tail _ h ih =>
    obtain ⟨b₁, hb₁, h₁⟩ := coreMove_origin h hb
    obtain ⟨b₀, hb₀, h₀⟩ := ih hb₁
    exact ⟨b₀, hb₀, remains_trans h₀ h₁⟩

/-- With no claim left of the sessions that are gone, every claim is placed. -/
theorem Placed.all {gone : Nat → Prop} (hs : Placed gone s) (h : ∀ c p, s.spot c = some p → ¬gone p.session) : AllPlaced s :=
  ⟨fun c p hp _ => hs.owner c p hp (h c p hp), hs.owned, hs.holders, hs.converts, hs.waits, hs.dormant, hs.ownedOnce,
    hs.listedOnce, hs.single, hs.pool⟩

theorem AllPlaced.lapsed (hs : AllPlaced s) {i : Nat} {l : LapsedSession} :
    Placed (· = i) (s.setSession i ⟨(s.session i).tag, .lapsed l⟩) := by
  have hclaims (j : Nat) : ((s.setSession i ⟨(s.session i).tag, .lapsed l⟩).session j).claims =
      if j = i then [] else (s.session j).claims := by
    rw [State.session_setSession]
    split_ifs <;> rfl
  refine ⟨fun c p hp hi => ?_, fun j c hc => ?_, hs.holders, hs.converts, hs.waits, hs.dormant, fun j => ?_, hs.listedOnce,
    hs.single, hs.pool⟩
  · rw [hclaims, if_neg hi]
    exact hs.owner c p hp id
  · rw [hclaims] at hc
    split_ifs at hc
    · cases hc
    · exact hs.owned j c hc
  · rw [hclaims]
    split_ifs
    exacts [List.nodup_nil, hs.ownedOnce j]

/-- A lapse leaves no claim of its session (R82). -/
theorem AllPlaced.lapse (hs : AllPlaced s) (i : Nat) (r : LapseReason) : AllPlaced (s.lapse i r) := by
  rcases ho : (s.session i).state with _ | o | l
  · rw [State.lapse, ho]
    exact hs
  · have hcore := core_lapse r ho
    refine Placed.all (Placed.core hs.lapsed hcore) fun c p hp hi => ?_
    obtain ⟨b, hb, rfl⟩ := claimAt_of_spot hp
    obtain ⟨b₀, hb₀, hsession, -, -⟩ := core_origin hcore hb
    have hmem := hs.owner c _ (spot_of_claimAt (s := s) hb₀) id
    rw [b₀.spot_session, ← hsession, ← b.spot_session, hi, SessionRec.claims_of_opened ho] at hmem
    have hnone : (s.lapse i r).claimAt c = none := by
      rw [State.lapse, ho]
      dsimp only
      rw [State.claimAt_raise]
      exact fold_none _ _ _ _ c hmem
    rw [hb] at hnone
    cases hnone
  · rw [State.lapse, ho]
    exact hs

/-- An OPEN session whose claims have all been freed has an empty list. -/
theorem AllPlaced.claims_eq_nil {t : State} (ht : AllPlaced t) {i : Nat}
    (h : ∀ c ∈ (t.session i).claims, t.claimAt c = none) : (t.session i).claims = [] := by
  refine List.eq_nil_iff_forall_not_mem.mpr fun c hc => ?_
  obtain ⟨p, hp, -⟩ := ht.owned i c hc
  obtain ⟨b, hb, -⟩ := claimAt_of_spot hp
  rw [h c hc] at hb
  cases hb

/-- Core moves take claims off a session's list and add none. -/
theorem core_claims_subset {t : State} (h : Core s t) (i : Nat) : (t.session i).claims ⊆ (s.session i).claims := by
  obtain ⟨-, hu⟩ := core_untouched h i
  rcases hx : (s.session i).state with _ | o | l <;> rw [hx] at hu
  · rw [claims_of_free hu]
    exact List.nil_subset _
  · obtain ⟨l, hl, ht⟩ := hu
    rw [SessionRec.claims_of_opened hx, SessionRec.claims_of_opened ht]
    exact hl.subset
  · obtain ⟨v, ht⟩ := hu
    rw [claims_of_lapsed ht]
    exact List.nil_subset _

theorem AllPlaced.close (hs : AllPlaced s) (i : Nat) : AllPlaced (s.close i) := by
  rcases hx : (s.session i).state with _ | o | l <;> rw [State.close, hx] <;> dsimp only
  · exact hs
  · have hcore := core_closing s o
    have ht : AllPlaced _ := Placed.core hs hcore
    refine Placed.of_same ht (samePlaces_freeSession (ht.claims_eq_nil fun c hc => ?_))
    exact fold_none _ _ _ _ c (SessionRec.claims_of_opened hx ▸ core_claims_subset hcore i hc)
  · have ht : AllPlaced (s.dropNotices l.channel (Notice.lapseOf i)) := Placed.core hs (.one (.drop ..))
    exact Placed.of_same ht (samePlaces_freeSession (claims_of_lapsed hx))

/-- What one turn of a fold of core moves reaches, and core moves keep, holds after the fold. -/
theorem foldl_reaches {α : Type} {Q : State → Prop} {f : State → α → State} (hcore : ∀ u v, Core u v → Q u → Q v)
    (hf : ∀ u a, Core u (f u a)) {a : α} (ha : ∀ u, Q (f u a)) {l : List α} (hl : a ∈ l) (s : State) : Q (l.foldl f s) := by
  induction l generalizing s with
  | nil => cases hl
  | cons x l ih =>
    rcases List.mem_cons.mp hl with rfl | hl
    · exact hcore _ _ (core_foldl f hf l _) (ha s)
    · exact ih hl _

theorem mem_waysOf {claims : List Nat} {c : Nat} {b : Claim} (hc : c ∈ claims) (hb : s.claimAt c = some b) :
    b.way ∈ s.waysOf claims :=
  List.mem_eraseDups.mpr (List.mem_filterMap.mpr ⟨c, hc, by rw [hb]; rfl⟩)

/-- One part of a fault or teardown: the claims of a way withdrawn, and the end of the event there (R91, R136). -/
def State.withdrawPartOf (f : State → Nat → State) (s : State) (p : Nat × List Nat) : State := (p.2.foldl f s).finish p.1

theorem core_withdrawPartOf {f : State → Nat → State} (hf : ∀ u k, Core u (f u k)) (s : State) (p : Nat × List Nat) :
    Core s (s.withdrawPartOf f p) :=
  (core_foldl f hf p.2 s).trans (core_finish ..)

/-- The parts of a fault or teardown reach every claim of their list (R91, R136). -/
theorem withdrawAll_reaches {lists : List (List Nat)} {claims : List Nat} {f : State → Nat → State} {c : Nat}
    {Q : State → Prop} (hcore : ∀ u v, Core u v → Q u → Q v) (hf : ∀ u k, Core u (f u k)) (hQ : ∀ u, Q (f u c))
    (hnone : ∀ u, u.claimAt c = none → Q u) (hc : c ∈ claims) (s : State) : Q (s.withdrawAll lists claims f) := by
  rcases hb : s.claimAt c with _ | b
  · exact hcore _ _ (core_withdrawAll s lists claims hf) (hnone s hb)
  · have hmem : (b.way, claims.filter fun k => (s.claimAt k).map (·.way) == some b.way) ∈
        (partOrder (lists.map s.waysOf) (s.waysOf claims).length s.choices (s.waysOf claims)).map fun w =>
          (w, claims.filter fun k => (s.claimAt k).map (·.way) == some w) :=
      List.mem_map.mpr ⟨b.way, (partOrder_perm _ _).mem_iff.mpr (mem_waysOf hc hb), rfl⟩
    have hpart (u : State) : Q (u.withdrawPartOf f (b.way, claims.filter fun k => (s.claimAt k).map (·.way) == some b.way)) :=
      hcore _ _ (core_finish ..) (foldl_reaches hcore hf hQ (List.mem_filter.mpr ⟨hc, by simp [hb]⟩) u)
    exact foldl_reaches (f := State.withdrawPartOf f) hcore (core_withdrawPartOf hf) hpart hmem _

theorem withdraw_none (s : State) (c : Nat) (st : Option Status) (v : Bool) : (s.withdraw c st v).claimAt c = none := by
  rcases hc : s.claimAt c with _ | b
  · exact core_none (core_withdraw ..) c hc
  · have hfree (u : State) : (u.freeClaim c).claimAt c = none := by rw [State.claimAt_freeClaim, if_pos rfl]
    unfold State.withdraw
    rw [hc]
    dsimp only
    split_ifs
    · rw [State.claimAt_modEntry]
      exact hfree _
    · exact hfree _

theorem withdrawAll_none {lists : List (List Nat)} {claims : List Nat} {c : Nat} (st : Option Status) (v : Bool)
    (hc : c ∈ claims) (s : State) : (s.withdrawAll lists claims fun s c => s.withdraw c st v).claimAt c = none :=
  withdrawAll_reaches (Q := fun u => u.claimAt c = none) (f := fun s c => s.withdraw c st v) (fun _ _ h => core_none h c)
    (fun _ _ => core_withdraw ..) (fun u => withdraw_none u c st v) (fun _ h => h) hc s

theorem mem_sessionsOf {ch i : Nat} : i ∈ s.sessionsOf ch ↔ (s.session i).channel = some ch := by
  rw [State.sessionsOf, List.mem_filter, Table.mem_indices]
  refine ⟨fun h => by simpa using h.2, fun h => ⟨fun hr => ?_, by simpa using h⟩⟩
  rw [State.session, hr] at h
  cases h

theorem channel_of_opened {r : SessionRec} {o : OpenSession} (h : r.state = .opened o) : r.channel = some o.channel := by
  rw [SessionRec.channel, h]

/-- Core moves leave every session on its channel. -/
theorem core_channel {t : State} (h : Core s t) (i : Nat) : (t.session i).channel = (s.session i).channel := by
  obtain ⟨-, hu⟩ := core_untouched h i
  rw [SessionRec.channel, SessionRec.channel]
  rcases hx : (s.session i).state with _ | o | l <;> rw [hx] at hu
  · rw [hu]
  · obtain ⟨l, -, ht⟩ := hu
    rw [ht]
  · obtain ⟨v, ht⟩ := hu
    rw [ht]

theorem mem_claimsOf {ch c : Nat} : c ∈ s.claimsOf ch ↔ ∃ i, (s.session i).channel = some ch ∧ c ∈ (s.session i).claims := by
  simp [State.claimsOf, List.mem_flatMap, mem_sessionsOf]

theorem AllPlaced.freeSessions {l : List Nat} (hs : AllPlaced s) (h : ∀ i ∈ l, (s.session i).claims = []) :
    AllPlaced (l.foldl State.freeSession s) ∧ ∀ c, (l.foldl State.freeSession s).claimAt c = s.claimAt c := by
  induction l generalizing s with
  | nil => exact ⟨hs, fun _ => rfl⟩
  | cons i l ih =>
    have hstep := samePlaces_freeSession (h i List.mem_cons_self)
    exact ih (Placed.of_same hs hstep) fun j hj => (hstep.claims j).trans (h j (List.mem_cons_of_mem _ hj))

/-- The state in which channel `ch` is CLOSING and has given up what it owes, is told and fetched (R139). -/
def State.closing (s : State) (ch : Nat) : State := s.setChan ch
  { s.chan ch with state := .closing, owed := 0, notices := [], fetch := (s.chan ch).fetch.atLeave }

/-- The state after the withdrawals of a teardown, before its sessions are freed (R91). -/
def State.emptied (s : State) (ch : Nat) : State :=
  (s.closing ch).withdrawAll (((s.closing ch).sessionsOf ch).map fun i => ((s.closing ch).session i).claims)
    ((s.closing ch).claimsOf ch) fun s c => s.withdraw c none true

theorem beginTeardown_eq (s : State) (ch : Nat) :
    s.beginTeardown ch = ((s.emptied ch).sessionsOf ch).foldl State.freeSession (s.emptied ch) := rfl

theorem core_emptied (s : State) (ch : Nat) : Core (s.closing ch) (s.emptied ch) :=
  core_withdrawAll _ _ _ fun _ _ => core_withdraw ..

/-- The sessions of a channel have no claim left when a teardown frees them (R91). -/
theorem AllPlaced.emptied (hs : AllPlaced s) (ch : Nat) : AllPlaced (s.emptied ch) ∧
    ∀ i ∈ (s.emptied ch).sessionsOf ch, ((s.emptied ch).session i).claims = [] := by
  have hcore := core_emptied s ch
  have hclosing : AllPlaced (s.closing ch) := Placed.of_same hs (SameTables.samePlaces ⟨rfl, rfl, rfl⟩)
  have ht : AllPlaced (s.emptied ch) := Placed.core hclosing hcore
  refine ⟨ht, fun i hi => ht.claims_eq_nil fun c hc => ?_⟩
  refine withdrawAll_none none true (mem_claimsOf.mpr ⟨i, ?_, core_claims_subset hcore i hc⟩) _
  rw [← core_channel hcore]
  exact mem_sessionsOf.mp hi

theorem AllPlaced.beginTeardown (hs : AllPlaced s) (ch : Nat) : AllPlaced (s.beginTeardown ch) := by
  obtain ⟨ht, hempty⟩ := hs.emptied ch
  exact (ht.freeSessions hempty).1

end

end Sys2Proof.Machine
end

section
/-! PROOFS. Every step keeps the claims in use placed (R24, R80): the commands. -/

namespace Sys2Proof.Machine

section
variable {s t : State}

theorem AllPlaced.after (hs : AllPlaced s) (h : Core s t) : AllPlaced t := Placed.core hs h

theorem AllPlaced.tables (hs : AllPlaced s) (h : SameTables s t) : AllPlaced t := Placed.of_same hs h.samePlaces

theorem AllPlaced.setChan (hs : AllPlaced s) (ch : Nat) (c : Channel) : AllPlaced (s.setChan ch c) :=
  hs.tables ⟨rfl, rfl, rfl⟩

theorem AllPlaced.renewed (hs : AllPlaced s) (i : Nat) : AllPlaced (s.renew i) := Placed.of_same hs (samePlaces_renew s i)

/-! ### Client requests -/

/-- A claim that has just been given its record and is to hold its mode (R50). -/
theorem AllPlaced.acquireAtEntry (hs : AllPlaced s) {idx ch i w : Nat} {tag : ReqTag} {m : Mode} {limit : BitVec 16}
    {o : OpenSession} {e : Entry} (hf : s.claimAt idx = none) (hi : idx < 32768) (ho : (s.session i).state = .opened o)
    (hw : s.way w = .active e) (hsingle : ∀ c p, s.spot c = some p → p.session = i → p.way ≠ w) :
    AllPlaced (s.acquireAtEntry idx ch tag i w m limit) := by
  unfold State.acquireAtEntry
  split_ifs
  · have hheld : AllPlaced ((s.allocate idx i w (.held m)).hold idx w m) :=
      Placed.of_same (hs.allocated hf hi ho hw hsingle rfl)
        (samePlaces_hold (by rw [State.claimAt_allocate, if_pos rfl]) rfl)
    exact hheld.after ((core_handClaim ..).trans (core_finish ..))
  · exact hs.after ((core_reply ..).trans (core_finish ..))
  · exact (hs.allocated hf hi ho hw hsingle rfl).after (core_finish ..)

theorem AllPlaced.acquireChecked (hs : AllPlaced s) (hr : ResourcesKept s) {idx ch i : Nat} {tag : ReqTag} {k : Key} {m : Mode}
    {limit : BitVec 16} {o : OpenSession} (hf : s.freeClaims ≠ 0 → s.claimAt idx = none) (hi : idx < 32768)
    (ho : (s.session i).state = .opened o) : AllPlaced (s.acquireChecked idx ch tag i k m limit) := by
  have hrefused (x : Status) : AllPlaced (s.reply ch .acquire tag x) := hs.after (core_reply ..)
  unfold State.acquireChecked
  split_ifs with h1 h2 h3 h4 h5
  iterate 5 exact hrefused _
  split
  · rename_i w t hp
    obtain ⟨ht, hsingle⟩ := hs.place hr hp (Bool.eq_false_of_not_eq_true h2)
    obtain ⟨e, he, -⟩ := active_place hp
    refine ht.acquireAtEntry (o := o) ?_ hi ?_ he hsingle
    · rw [State.place_frame s hp]
      exact hf h4
    · rw [State.place_frame s hp]
      exact ho
  · exact hrefused _

theorem AllPlaced.acquire (hs : AllPlaced s) (hr : ResourcesKept s) {idx ch : Nat} {tag : ReqTag} {session : SessionHandle}
    {domain mode : BitVec 8} {limit : BitVec 16} {name : Name} (hf : s.freeClaims ≠ 0 → s.claimAt idx = none)
    (hi : idx < 32768) : AllPlaced (s.acquire idx ch tag session domain mode limit name) := by
  have hrefused (x : Status) : AllPlaced (s.reply ch .acquire tag x) := hs.after (core_reply ..)
  unfold State.acquire
  split
  · exact hrefused _
  · split
    · split
      · exact hrefused _
      · exact hrefused _
      · rename_i i hc
        obtain ⟨rfl, o, ho, -⟩ := checkSession_opened hc
        have hframe := State.renew_frame s (sessionIndex session)
        refine (hs.renewed _).acquireChecked (hr.of_sameTable (.of_eq (by simp) (by simp))) ?_ hi
          (o := { o with deadline := keepaliveDeadline s.now o.period }) ?_
        · rw [hframe]
          exact hf
        · rw [session_renew ho]
    · exact hrefused _
    · exact hrefused _

theorem AllPlaced.upgrade (hs : AllPlaced s) {ch : Nat} {tag : ReqTag} {c w : Nat} {held m : Mode} {limit : BitVec 16}
    {b : Claim} (hb : s.claimAt c = some b) (hw : b.way = w) (hst : b.state = .held held) :
    AllPlaced (s.upgrade ch tag c w held m limit) := by
  unfold State.upgrade
  dsimp only
  generalize hu : (if m = .exclusive then s.failConversions w else s) = u
  have hsu : AllPlaced u := by
    rw [← hu]
    split
    exacts [hs.after (core_failConversions ..), hs]
  have hub : u.claimAt c = some b := by
    rw [← hu]
    split
    exacts [failConversions_held hb hst, hb]
  split_ifs
  · obtain ⟨b', hb', hs', -⟩ := claimAt_clearNoticed (c := c) hub
    have hheld : AllPlaced ((u.clearNoticed c).hold c w m) :=
      Placed.of_same (hsu.after (core_clearNoticed ..)) (samePlaces_hold hb' (hs'.trans hst))
    exact hheld.after ((core_handClaim ..).trans (core_finish ..))
  · exact hsu.after ((core_hand ..).trans (core_finish ..))
  · exact (hsu.converting _ hub hw hst).after (core_finish ..)

theorem AllPlaced.downgrade (hs : AllPlaced s) {ch : Nat} {tag : ReqTag} {c w : Nat} {held m : Mode} {p i : Bool}
    {v : ValueWord} {b : Claim} (hb : s.claimAt c = some b) (hst : b.state = .held held) :
    AllPlaced (s.downgrade ch tag c w held m p i v) := by
  have hspot (y : Claim) (hy : s.claimAt c = some y) : ({ y with state := .held m } : Claim).spot = y.spot := by
    obtain rfl := Option.some.inj (hy.symm.trans hb)
    simp [Claim.spot, hst, ClaimState.heldMode, ClaimState.wantedMode]
  have hheld : AllPlaced (s.modClaim c fun y => { y with state := .held m }) :=
    Placed.of_same hs (.modClaim s c _ hspot)
  unfold State.downgrade
  dsimp only
  refine hheld.after ((core_clearNoticed _ c).trans (.trans ?_ ((core_hand ..).trans (core_finish ..))))
  split_ifs
  · exact .single (.valued w (fun x => x.written p i v) (written_absent p i v))
  · exact .refl

theorem AllPlaced.convertChecked (hs : AllPlaced s) {ch : Nat} {tag : ReqTag} {c : Nat} {b : Claim} {m : Mode} {p i : Bool}
    {limit : BitVec 16} {v : ValueWord} (hb : s.claimAt c = some b) : AllPlaced (s.convertChecked ch tag c b m p i limit v) := by
  have hrefused (x : Status) : AllPlaced (s.refuseConvert ch tag c x) := hs.after (core_hand ..)
  unfold State.convertChecked
  split
  · exact hs.after (core_reply ..)
  · split
    · rename_i held hst
      unfold State.convertHeld
      split
      · exact hrefused _
      · split
        · exact hrefused _
        · exact hs.downgrade hb hst
      · split_ifs
        iterate 3 exact hrefused _
        exact hs.upgrade hb rfl hst
    · exact hrefused _
    · exact hrefused _

theorem AllPlaced.convert (hs : AllPlaced s) {ch : Nat} {tag : ReqTag} {claim : ClaimHandle} {mode : BitVec 8} {p i : Bool}
    {limit : BitVec 16} {v : ValueWord} : AllPlaced (s.convert ch tag claim mode p i limit v) := by
  have hrefused (x : Status) : AllPlaced (s.reply ch .convert tag x) := hs.after (core_reply ..)
  unfold State.convert
  split
  · exact hrefused _
  · split
    · split
      · exact hrefused _
      · split
        · split
          · rename_i b hb
            refine (hs.renewed _).convertChecked ?_
            rw [State.renew_frame]
            exact hb
          · exact hrefused _
        · exact hrefused _
    · exact hrefused _

theorem AllPlaced.release (hs : AllPlaced s) {ch : Nat} {tag : ReqTag} {claim : ClaimHandle} {p i : Bool} {v : ValueWord} :
    AllPlaced (s.release ch tag claim p i v) := by
  have hrefused (x : Status) : AllPlaced (s.reply ch .release tag x) := hs.after (core_reply ..)
  unfold State.release
  split
  · exact hrefused _
  · split
    · exact hrefused _
    · split
      · split
        · exact (hs.renewed _).after core_releaseChecked
        · exact hrefused _
      · exact hrefused _

theorem AllPlaced.cancel (hs : AllPlaced s) {ch : Nat} {tag : ReqTag} {session : SessionHandle} {domain : BitVec 8} {name : Name} :
    AllPlaced (s.cancel ch tag session domain name) := by
  have hrefused (x : Status) : AllPlaced (s.reply ch .cancel tag x) := hs.after (core_reply ..)
  unfold State.cancel
  split
  · exact hrefused _
  · split
    · split
      · exact hrefused _
      · exact hrefused _
      · exact (hs.renewed _).after core_cancelChecked
    · exact hrefused _

theorem AllPlaced.checkFence (hs : AllPlaced s) {ch : Nat} {tag : ReqTag} {session : SessionHandle} {domain : BitVec 8}
    {name : Name} {serial : Serial} : AllPlaced (s.checkFence ch tag session domain name serial) := by
  have hrefused (x : Status) : AllPlaced (s.reply ch .checkFence tag x) := hs.after (core_reply ..)
  unfold State.checkFence
  split
  · exact hrefused _
  · split
    · split
      · exact hs.after core_checkFenceChecked
      · split
        · exact hrefused _
        · exact hrefused _
        · exact (hs.renewed _).after core_checkFenceChecked
    · exact hrefused _

theorem AllPlaced.openSession (hs : AllPlaced s) {ch : Nat} {tag : ReqTag} {p : BitVec 16} {n : Bool} :
    AllPlaced (s.openSession ch tag p n) := by
  have hrefused (x : Status) : AllPlaced (s.reply ch .openSession tag x) := hs.after (core_reply ..)
  unfold State.openSession
  split_ifs
  iterate 3 exact hrefused _
  split
  · rename_i i hi
    have hsame : SamePlaces s (s.openAt i ch p n) := .setSession (claims_of_free (searchFreeSession_some hi).2).symm
    exact AllPlaced.after (Placed.of_same hs hsame) (core_hand ..)
  · exact hrefused _

theorem AllPlaced.closeSession (hs : AllPlaced s) {ch : Nat} {tag : ReqTag} {session : SessionHandle} :
    AllPlaced (s.closeSession ch tag session) := by
  unfold State.closeSession
  split
  · exact hs.after (core_reply ..)
  · split
    · exact hs.after (core_reply ..)
    · exact (hs.close _).after (core_reply ..)
    · exact (hs.close _).after (core_reply ..)

theorem AllPlaced.keepalive (hs : AllPlaced s) {ch : Nat} {tag : ReqTag} {session : SessionHandle} :
    AllPlaced (s.keepalive ch tag session) := by
  unfold State.keepalive
  split
  · exact hs.after (core_reply ..)
  · split
    · exact hs.after (core_reply ..)
    · exact hs.after (core_reply ..)
    · exact (hs.renewed _).after (core_hand ..)

/-! ### Faults, teardowns and management requests -/

theorem AllPlaced.fault (hs : AllPlaced s) {ch : Nat} {cause : Cause} : AllPlaced (s.fault ch cause) := by
  unfold State.fault
  split
  · exact hs.tables ⟨by simp [State.faultManagement], by simp [State.faultManagement], by simp [State.faultManagement]⟩
  · exact (hs.setChan ch _).after (core_faultClient ..)

theorem AllPlaced.endTeardownIfDrained (hs : AllPlaced s) {ch : Nat} : AllPlaced (s.endTeardownIfDrained ch) := by
  unfold State.endTeardownIfDrained
  split_ifs
  · unfold State.endTeardown
    dsimp only
    split
    · rename_i tag _
      have hoff : AllPlaced { s.setChan ch Channel.reset with teardownReplies := s.teardownReplies.set ch none } :=
        hs.tables ⟨rfl, rfl, rfl⟩
      exact hoff.after (core_reply ..)
    · exact hs.setChan _ _
  · exact hs

theorem AllPlaced.teardown (hs : AllPlaced s) {ch : Nat} {tag : ReqTag} : AllPlaced (s.teardown ch tag) := by
  have hbegun : AllPlaced ((s.dropNotices 0 (Notice.faultOf ch)).beginTeardown ch) :=
    (hs.after (.one (.drop ..))).beginTeardown ch
  unfold State.teardown
  dsimp only
  generalize (s.dropNotices 0 (Notice.faultOf ch)).beginTeardown ch = u at hbegun
  have hkept : AllPlaced { u with teardownReplies := u.teardownReplies.set ch (some tag) } := hbegun.tables ⟨rfl, rfl, rfl⟩
  exact hkept.endTeardownIfDrained

theorem AllPlaced.setupChannel (hs : AllPlaced s) {ch : Nat} {tag : ReqTag} {target v : BitVec 8} {a b : BitVec 16}
    {x y : HostAddr} {m n : BitVec 16} : AllPlaced (s.setupChannel ch tag target v a b x y m n) := by
  have hrefused (x : Status) : AllPlaced (s.reply ch .setupChannel tag x) := hs.after (core_reply ..)
  unfold State.setupChannel
  split
  · exact hrefused _
  · split
    · split
      iterate 3 exact hrefused _
      exact (hs.setChan _ _).after (core_reply ..)
    · exact hrefused _
    · exact hrefused _

theorem AllPlaced.teardownChannel (hs : AllPlaced s) {ch : Nat} {tag : ReqTag} {target : BitVec 8} :
    AllPlaced (s.teardownChannel ch tag target) := by
  have hrefused (x : Status) : AllPlaced (s.reply ch .teardownChannel tag x) := hs.after (core_reply ..)
  unfold State.teardownChannel
  split
  · exact hrefused _
  · split
    · split
      exacts [hrefused _, hrefused _, hs.teardown, hs.teardown]
    · exact hrefused _

theorem AllPlaced.restart (hs : AllPlaced s) (ch : Nat) : AllPlaced (s.restart ch) :=
  AllPlaced.after ((hs.setChan _ _).after (.one (.drop ..))) (core_foldl _ core_retell _ _)

theorem AllPlaced.restartChannel (hs : AllPlaced s) {ch : Nat} {tag : ReqTag} {target : BitVec 8} :
    AllPlaced (s.restartChannel ch tag target) := by
  have hrefused (x : Status) : AllPlaced (s.reply ch .restartChannel tag x) := hs.after (core_reply ..)
  unfold State.restartChannel
  split
  · exact hrefused _
  · split
    · split
      iterate 3 exact hrefused _
      split_ifs
      exacts [hrefused _, (hs.restart _).after (core_reply ..)]
    · exact hrefused _

theorem AllPlaced.setAccess (hs : AllPlaced s) {ch : Nat} {tag : ReqTag} {target domain level : BitVec 8} :
    AllPlaced (s.setAccess ch tag target domain level) := by
  have hrefused (x : Status) : AllPlaced (s.reply ch .setAccess tag x) := hs.after (core_reply ..)
  have hset (t d : Nat) (l : Level) : AllPlaced (s.setLevel ch t tag d l) := (hs.setChan _ _).after (core_hand ..)
  unfold State.setAccess
  split
  · exact hrefused _
  · split
    · split
      · exact hrefused _
      · split
        exacts [hrefused _, hrefused _, hset _ _ _, hset _ _ _]
    · exact hrefused _
    · exact hrefused _

theorem AllPlaced.setLimits (hs : AllPlaced s) {ch : Nat} {tag : ReqTag} {target : BitVec 8} {a b : BitVec 16} :
    AllPlaced (s.setLimits ch tag target a b) := by
  have hrefused (x : Status) : AllPlaced (s.reply ch .setLimits tag x) := hs.after (core_reply ..)
  have hset (t x y : Nat) : AllPlaced (s.limit ch t tag x y) := by
    unfold State.limit
    split_ifs
    exacts [hrefused _, (hs.setChan _ _).after (core_reply ..)]
  unfold State.setLimits
  split
  · exact hrefused _
  · split
    · split
      · exact hrefused _
      · split
        exacts [hrefused _, hrefused _, hset _ _ _, hset _ _ _]
    · exact hrefused _

theorem AllPlaced.setTick (hs : AllPlaced s) {ch : Nat} {tag : ReqTag} {p : BitVec 32} : AllPlaced (s.setTick ch tag p) := by
  unfold State.setTick
  split_ifs
  · exact hs.after (core_reply ..)
  · exact hs.after (core_reply ..)
  · have hset : AllPlaced { s with requestedPeriod := some p } := hs.tables ⟨rfl, rfl, rfl⟩
    exact hset.after (core_reply ..)

theorem AllPlaced.evictSession (hs : AllPlaced s) {ch : Nat} {tag : ReqTag} {session : SessionHandle} :
    AllPlaced (s.evictSession ch tag session) := by
  unfold State.evictSession
  split
  · exact hs.after (core_reply ..)
  · split
    · exact hs.after (core_reply ..)
    · exact hs.after (core_reply ..)
    · exact (hs.lapse _ _).after (core_reply ..)

theorem AllPlaced.discardResource (hs : AllPlaced s) {ch : Nat} {tag : ReqTag} {domain : BitVec 8} {name : Name} :
    AllPlaced (s.discardResource ch tag domain name) := by
  have hrefused (x : Status) : AllPlaced (s.reply ch .discardResource tag x) := hs.after (core_reply ..)
  unfold State.discardResource
  split
  · exact hrefused _
  · split
    · split
      · split
        · exact (hs.discarded ‹_›).after (core_reply ..)
        · exact hrefused _
        · exact hrefused _
      · exact hrefused _
    · exact hrefused _

theorem core_inspectResource {ch : Nat} {tag : ReqTag} {domain : BitVec 8} {name : Name} :
    Core s (s.inspectResource ch tag domain name) := by
  unfold State.inspectResource
  split
  · exact core_reply ..
  · split
    exacts [core_hand .., core_reply ..]

theorem core_inspectSession {ch : Nat} {tag : ReqTag} {session : SessionHandle} :
    Core s (s.inspectSession ch tag session) := by
  unfold State.inspectSession
  split
  · exact core_reply ..
  · split
    exacts [core_reply .., core_hand .., core_hand ..]

theorem core_inspectDevice {ch : Nat} {tag : ReqTag} : Core s (s.inspectDevice ch tag) := by
  unfold State.inspectDevice
  split
  exacts [core_reply .., core_hand ..]

/-! ### Registers, DMA and time -/

theorem AllPlaced.writeReqProd (hs : AllPlaced s) {ch index : Nat} : AllPlaced (s.writeReqProd ch index) := by
  unfold State.writeReqProd
  split
  · split
    exacts [hs.setChan _ _, hs.fault]
  exacts [hs.setChan _ _, hs, hs]

theorem AllPlaced.noticeTurn {ch : Nat} (hs : AllPlaced s) (h : s.noticeTurn ch = some t) : AllPlaced t := by
  unfold State.noticeTurn at h
  split at h
  · split_ifs at h
    cases h
    exact Placed.of_same (hs.setChan _ _) (.of_ways (by simp) (by simp [State.spot]) fun i => claims_markLapse ..)
  · cases h

theorem AllPlaced.noticeTurns {ch : Nat} (hs : AllPlaced s) (fuel : Nat) : AllPlaced (repeatTurn (·.noticeTurn ch) fuel s) := by
  induction fuel generalizing s with
  | zero => exact hs
  | succ n ih =>
    unfold repeatTurn
    split
    exacts [ih (hs.noticeTurn ‹_›), hs]

theorem AllPlaced.consume (hs : AllPlaced s) {ch index : Nat} {arm : Bool} : AllPlaced (s.consume ch index arm) := by
  unfold State.consume
  dsimp only
  have hturns := (hs.setChan ch { s.chan ch with rplCons := index }).noticeTurns (ch := ch)
    ((s.setChan ch { s.chan ch with rplCons := index }).chan ch).notices.length
  split_ifs
  · unfold State.arm
    split_ifs
    · exact (hturns.after (core_sendInterrupt ..)).setChan _ _
    · exact hturns.setChan _ _
  · exact hturns

theorem AllPlaced.writeRplCons (hs : AllPlaced s) {ch index : Nat} {arm : Bool} : AllPlaced (s.writeRplCons ch index arm) := by
  unfold State.writeRplCons
  split
  · split
    exacts [hs.consume, hs.fault]
  exacts [hs.setChan _ _, hs, hs]

theorem sameTables_badSetup (s : State) : SameTables s s.badSetup := by
  unfold State.badSetup State.setupInterrupt
  split_ifs <;> exact ⟨rfl, rfl, rfl⟩

theorem sameTables_writeMgmtControl (s : State) (v : BitVec 32) : SameTables s (s.writeMgmtControl v) := by
  have hsame : SameTables s s := ⟨rfl, rfl, rfl⟩
  have hstart : SameTables s s.startManagement := ⟨rfl, rfl, rfl⟩
  unfold State.writeMgmtControl State.enable State.restartManagement
  split
  · split_ifs
    exacts [hstart, sameTables_badSetup s, hsame]
  · split_ifs
    exacts [hsame, hstart, sameTables_badSetup s, hsame]
  exacts [hsame, hsame]

theorem AllPlaced.completeWrite (hs : AllPlaced s) {ch : Nat} : AllPlaced (s.completeWrite ch) := by
  unfold State.completeWrite
  dsimp only
  split
  · exact AllPlaced.setChan (AllPlaced.after (AllPlaced.setChan (hs.setChan _ _) _ _) (core_sendInterrupt ..)) _ _
  · exact AllPlaced.setChan (hs.setChan _ _) _ _

theorem samePlaces_tickOnce (s : State) : SamePlaces s s.tickOnce := by
  refine .of_ways (fun w => rfl) (fun c => ?_) fun i => ?_
  · rw [State.spot, claimAt_tickOnce, State.spot]
    rcases s.claimAt c with _ | ⟨i, w, st, n, f⟩
    · rfl
    · rcases st with ⟨m, q⟩ | m | ⟨x, m, q⟩ <;> rfl
  · rw [State.session, State.tickOnce, Table.get_map _ _ rfl]
    rcases hi : (s.session i).state with _ | o | l <;> rw [State.session] at hi <;>
      simp [SessionRec.claims, SessionRec.atTick, State.session, hi]

theorem AllPlaced.cleared (s : State) (ready : Bool) : AllPlaced (s.cleared ready) :=
  AllPlaced.tables reset_claimsPlaced.placed ⟨rfl, rfl, rfl⟩

/-! ### Every command -/

theorem AllPlaced.taken {ch : Fin 16} {i : Instr} {f : State → State} (h : takeRequest ch i f s = .next t) (hs : AllPlaced s)
    (hf : AllPlaced (s.popRequest ch) → AllPlaced (f (s.popRequest ch))) : AllPlaced t := by
  unfold takeRequest at h
  split at h
  · cases h
    exact hf (hs.setChan _ _)
  · cases h
    exact hs

theorem AllPlaced.exec {c : Instr} (h : exec c s = .next t) (hr : ResourcesKept s) (hs : AllPlaced s) : AllPlaced t := by
  cases c
  case openSession =>
    simp only [Machine.exec, execOpenSession] at h
    exact .taken h hs fun hu => hu.openSession
  case closeSession =>
    simp only [Machine.exec, execCloseSession] at h
    exact .taken h hs fun hu => hu.closeSession
  case keepalive =>
    simp only [Machine.exec, execKeepalive] at h
    exact .taken h hs fun hu => hu.keepalive
  case acquire =>
    simp only [Machine.exec, execAcquire] at h
    exact .taken h hs fun hu => hu.acquire (hr.of_sameTable (.of_eq (fun _ => rfl) fun _ => rfl))
      (fun hn => (pickClaim_free _ hn).1) (searchFreeClaim_lt ..)
  case convert =>
    simp only [Machine.exec, execConvert] at h
    exact .taken h hs fun hu => hu.convert
  case release =>
    simp only [Machine.exec, execRelease] at h
    exact .taken h hs fun hu => hu.release
  case cancel =>
    simp only [Machine.exec, execCancel] at h
    exact .taken h hs fun hu => hu.cancel
  case checkFence =>
    simp only [Machine.exec, execCheckFence] at h
    exact .taken h hs fun hu => hu.checkFence
  case unknownKindRequest =>
    simp only [Machine.exec, execUnknownKindRequest] at h
    exact .taken h hs fun hu => hu.after (core_reply ..)
  case setupChannel =>
    simp only [Machine.exec, execSetupChannel] at h
    exact .taken h hs fun hu => hu.setupChannel
  case teardownChannel =>
    simp only [Machine.exec, execTeardownChannel] at h
    exact .taken h hs fun hu => hu.teardownChannel
  case restartChannel =>
    simp only [Machine.exec, execRestartChannel] at h
    exact .taken h hs fun hu => hu.restartChannel
  case setAccess =>
    simp only [Machine.exec, execSetAccess] at h
    exact .taken h hs fun hu => hu.setAccess
  case setLimits =>
    simp only [Machine.exec, execSetLimits] at h
    exact .taken h hs fun hu => hu.setLimits
  case setTick =>
    simp only [Machine.exec, execSetTick] at h
    exact .taken h hs fun hu => hu.setTick
  case evictSession =>
    simp only [Machine.exec, execEvictSession] at h
    exact .taken h hs fun hu => hu.evictSession
  case discardResource =>
    simp only [Machine.exec, execDiscardResource] at h
    exact .taken h hs fun hu => hu.discardResource
  case inspectResource =>
    simp only [Machine.exec, execInspectResource] at h
    exact .taken h hs fun hu => hu.after core_inspectResource
  case inspectSession =>
    simp only [Machine.exec, execInspectSession] at h
    exact .taken h hs fun hu => hu.after core_inspectSession
  case inspectDevice =>
    simp only [Machine.exec, execInspectDevice] at h
    exact .taken h hs fun hu => hu.after core_inspectDevice
  case reqProdWrite =>
    cases h
    split_ifs
    exacts [hs.writeReqProd, hs]
  case rplConsWrite =>
    cases h
    split_ifs
    exacts [hs.writeRplCons, hs]
  case mgmtControlEnable =>
    cases h
    split_ifs
    exacts [hs.tables (sameTables_writeMgmtControl ..), hs]
  case mgmtControlRestart =>
    cases h
    split_ifs
    exacts [hs.tables (sameTables_writeMgmtControl ..), hs]
  case mgmtRingRegisterWrite =>
    cases h
    split_ifs
    exacts [hs.tables ⟨rfl, rfl, rfl⟩, hs]
  case otherRegisterWrite =>
    cases h
    exact hs
  case tick =>
    cases h
    split_ifs
    exacts [Placed.of_same hs (samePlaces_tickOnce s), hs]
  case keepaliveExpiry =>
    cases h
    split_ifs
    exacts [hs.lapse _ _, hs]
  case waitExpiry =>
    cases h
    split_ifs
    · unfold State.expireWait
      split
      exacts [hs.after ((core_endWait ..).trans (core_finish ..)), hs]
    · exact hs
  case fetchIssue =>
    cases h
    split
    exacts [hs.tables ⟨rfl, rfl, rfl⟩, hs]
  case fetchCompletion =>
    cases h
    split
    · split_ifs
      exacts [hs, hs.setChan _ _, (hs.setChan _ _).endTeardownIfDrained]
    exacts [hs, hs]
  case fetchError =>
    cases h
    split
    · split_ifs
      exacts [(hs.setChan _ _).fault, (hs.setChan _ _).endTeardownIfDrained]
    exacts [hs, hs]
  case writeCompletion =>
    cases h
    split_ifs
    exacts [hs, hs.completeWrite, (hs.setChan _ _).endTeardownIfDrained]
  case writeError =>
    cases h
    split_ifs
    exacts [hs, (hs.setChan _ _).fault, (hs.setChan _ _).endTeardownIfDrained]
  case teardownEnd =>
    cases h
    exact hs.endTeardownIfDrained
  case deviceReset =>
    cases h
    exact .cleared ..
  case startupEnd =>
    cases h
    split_ifs
    exacts [hs, .cleared ..]

end

/-- Settles O52: the shared parts keep every claim placed, a new claim is placed where its session has none, and a session is
lapsed or freed with no claim left. -/
theorem claimsPlacedKeptByStep : Obligations.ClaimsPlacedKeptByStep := by
  intro s t hr hs h
  unfold step at h
  split at h
  · exact Placed.claimsPlaced (AllPlaced.exec h (hr.of_sameTable (.of_eq (fun _ => rfl) fun _ => rfl))
      (AllPlaced.tables hs.placed ⟨rfl, rfl, rfl⟩))
  · cases h
    exact hs

end Sys2Proof.Machine
end

section
/-! PROOFS. What the ends of waits and of claims come to, written out on records (R28, R53, R58): a reply handed before a change of
the tables or after it makes the same state. -/

namespace Sys2Proof.Machine

/-! ### Replies and the tables -/

theorem Table.set_comm {α : Type} {d : α} [DecidableEq α] (t : Table α d) {n m : Nat} (h : n ≠ m) (v w : α) :
    (t.set n v).set m w = (t.set m w).set n v :=
  Table.ext_get fun k => by
    by_cases hn : k = n <;> by_cases hm : k = m <;> simp_all

/-- The channels after a reply is handed to channel `ch` (R130). -/
def handedTo (channels : Table Channel Channel.reset) (ch : Nat) (r : Reply) : Table Channel Channel.reset :=
  if (channels.get ch).state = .active then
    channels.set ch { (channels.get ch).issue r.bytes with owed := (channels.get ch).owed - 1 }
  else channels

section
variable {s : State} {ch c w i : Nat} {r : Reply} {b : Claim} {o : OpenSession} {e : Entry}

theorem hand_eq (s : State) (ch : Nat) (r : Reply) : s.hand ch r = { s with channels := handedTo s.channels ch r } := by
  unfold State.hand handedTo
  by_cases h : (s.chan ch).state = .active
  · rw [if_pos h, if_pos (show (s.channels.get ch).state = .active from h)]
    rfl
  · rw [if_neg h, if_neg (show ¬(s.channels.get ch).state = .active from h)]

theorem hand_dropNotices (s : State) (ch n : Nat) (r : Reply) (p : Notice → Bool) :
    (s.hand ch r).dropNotices n p = (s.dropNotices n p).hand ch r := by
  by_cases h : (s.chan ch).state = .active
  · have hd : ((s.dropNotices n p).chan ch).state = .active := by
      rw [State.chan_dropNotices]
      split_ifs with hn
      exacts [hn ▸ h, h]
    rcases eq_or_ne n ch with rfl | hn
    · rw [State.hand, if_pos h, State.hand, if_pos hd]
      simp only [State.dropNotices, State.setChan, State.chan, Table.set_set, Table.get_set, if_true]
      rfl
    · rw [State.hand, if_pos h, State.hand, if_pos hd]
      simp only [State.dropNotices, State.setChan, State.chan, Table.get_set, hn, Ne.symm hn, if_false]
      rw [Table.set_comm _ hn]
  · have hd : ¬((s.dropNotices n p).chan ch).state = .active := by
      rw [State.chan_dropNotices]
      split_ifs with hn
      exacts [hn ▸ h, h]
    rw [State.hand, if_neg h, State.hand, if_neg hd]

theorem withFreedClaim_hand (s : State) (ch : Nat) (r : Reply) (i : Nat) (o : OpenSession) (c w : Nat) (e : Entry) :
    (s.hand ch r).withFreedClaim i o c w e = (s.withFreedClaim i o c w e).hand ch r := by
  unfold State.withFreedClaim
  rw [hand_dropNotices, hand_eq s ch r, hand_eq (s.dropNotices ..), hand_eq]
  rfl

/-! ### Claims freed and conversions ended -/

theorem claimChannel_opened (hb : s.claimAt c = some b) (ho : (s.session b.session).state = .opened o) :
    s.claimChannel c = some o.channel := by
  rw [State.claimChannel, hb, Option.bind_some, channel_of_opened ho]

theorem freeClaim_eq (hb : s.claimAt c = some b) (ho : (s.session b.session).state = .opened o)
    (hw : s.way b.way = .active e) : s.freeClaim c = s.withFreedClaim b.session o c b.way e := by
  have hd : s.dropContention c = s.dropNotices o.channel (Notice.contentionOf c) := by
    rw [State.dropContention, claimChannel_opened hb ho]
  rw [State.freeClaim, hb]
  dsimp only
  rw [hd, modEntry_active _ (show (s.dropNotices _ _).way b.way = _ from hw), modOpen_opened _ (by simpa using ho)]
  rfl

/-- Claim `c`, CONVERTING at way `b.way`, back at HELD in mode `x` and out of the convert queue (R23, R58). -/
def State.reverted (s : State) (c : Nat) (b : Claim) (e : Entry) (x : Mode) : State :=
  { s with
    claims := s.claims.set c ⟨(s.claim c).tag, some { b with state := .held x }⟩
    ways := s.ways.set b.way (.active { e with converts := e.converts.filter (· != c) }) }

theorem endConversion_eq {x m : Mode} {wait : Wait} (hb : s.claimAt c = some b) (hst : b.state = .converting x m wait)
    (hw : s.way b.way = .active e) : s.endConversion c = s.reverted c b e x := by
  rw [State.endConversion, hb]
  dsimp only
  rw [hst]
  dsimp only
  rw [modEntry_active _ hw, modClaim_some (b := b) _ (by simpa using hb)]
  rfl

theorem reverted_hand (s : State) (ch : Nat) (r : Reply) (c : Nat) (b : Claim) (e : Entry) (x : Mode) :
    (s.hand ch r).reverted c b e x = (s.reverted c b e x).hand ch r := by
  unfold State.reverted
  rw [hand_eq s ch r, hand_eq]
  rfl

/-! ### Deferred replies and the ends of waits -/

theorem answer_waiting {m : Mode} {wait : Wait} {st : Status} {full : Bool} (hb : s.claimAt c = some b)
    (hst : b.state = .waiting m wait) (ho : (s.session b.session).state = .opened o) :
    s.answer c st full = s.hand o.channel ⟨.acquire, wait.tag, st, .header⟩ := by
  rw [State.answer, hb]
  dsimp only
  rw [hst]
  dsimp only
  rw [State.handClaim, claimChannel_opened hb ho]

theorem answer_converting {x m : Mode} {wait : Wait} {st : Status} {full : Bool} (hb : s.claimAt c = some b)
    (hst : b.state = .converting x m wait) (ho : (s.session b.session).state = .opened o) :
    s.answer c st full = s.hand o.channel
      ⟨.convert, wait.tag, st, if full then .claimMode (s.claimHandle c) (some x) else .header⟩ := by
  rw [State.answer, hb]
  dsimp only
  rw [hst]
  dsimp only
  rw [State.handClaim, claimChannel_opened hb ho]

theorem answer_held {x : Mode} {st : Status} {full : Bool} (hb : s.claimAt c = some b) (hst : b.state = .held x) :
    s.answer c st full = s := by
  rw [State.answer, hb]
  dsimp only
  rw [hst]

/-- A WAITING claim whose wait ends is freed and its ACQUIRE answered (R38, R65, R66). -/
theorem endWait_waiting {m : Mode} {wait : Wait} {st : Status} (hb : s.claimAt c = some b) (hst : b.state = .waiting m wait)
    (ho : (s.session b.session).state = .opened o) (hw : s.way b.way = .active e) :
    s.endWait c st = (s.withFreedClaim b.session o c b.way e).hand o.channel ⟨.acquire, wait.tag, st, .header⟩ := by
  rw [State.endWait, hb]
  dsimp only
  rw [hst]
  dsimp only
  rw [answer_waiting hb hst ho, freeClaim_eq (by simpa using hb) (by simpa using ho) (by simpa using hw), withFreedClaim_hand]

/-- A CONVERTING claim whose wait ends is HELD at its old mode and its CONVERT answered (R38, R60, R65, R66). -/
theorem endWait_converting {x m : Mode} {wait : Wait} {st : Status} (hb : s.claimAt c = some b)
    (hst : b.state = .converting x m wait) (ho : (s.session b.session).state = .opened o) (hw : s.way b.way = .active e) :
    s.endWait c st = (s.reverted c b e x).hand o.channel
      ⟨.convert, wait.tag, st, .claimMode (s.claimHandle c) (some x)⟩ := by
  rw [State.endWait, hb]
  dsimp only
  rw [hst]
  dsimp only
  rw [answer_converting hb hst ho, endConversion_eq (by simpa using hb) hst (by simpa using hw), reverted_hand]
  rfl

end

/-- Settles O46: a due deadline ends its wait with TIMED_OUT, and one that is not due is passed over. -/
theorem waitExpiryEndsWait : Obligations.WaitExpiryEndsWait := by
  refine fun s c => ⟨fun b o e tag tick hb ho hw => ⟨fun m hst => ?_, fun x m hst => ?_⟩, fun h => ?_⟩
  · have hdue : s.waitDue c = true := by rw [State.waitDue, hb, Option.bind_some, hst]; rfl
    rw [exec, execWaitExpiry, if_pos hdue, State.expireWait, hb]
    dsimp only
    rw [endWait_waiting hb hst ho hw]
  · have hdue : s.waitDue c = true := by rw [State.waitDue, hb, Option.bind_some, hst]; rfl
    rw [exec, execWaitExpiry, if_pos hdue, State.expireWait, hb]
    dsimp only
    rw [endWait_converting hb hst ho hw]
    rfl
  · have hdue : s.waitDue c = false := by
      unfold State.waitDue
      split
      · rename_i d hd
        obtain ⟨w, hw, hd⟩ := Option.bind_eq_some_iff.mp hd
        obtain ⟨b, hb, hw⟩ := Option.bind_eq_some_iff.mp hw
        exact h b w d hb hw hd
      · rfl
    rw [exec, execWaitExpiry, hdue]
    rfl

end Sys2Proof.Machine
end

section
/-! PROOFS. RELEASE (R62 to R64), CONVERT upward (R57) and ACQUIRE not grantable (R51). -/

namespace Sys2Proof.Machine

section
variable {s : State} {ch : Fin 16} {tag : ReqTag} {c i w : Nat} {h : ClaimHandle} {b : Claim} {o : OpenSession} {e : Entry}

/-! ### What a request of a session begins with -/

theorem session_begun (s : State) (n i : Nat) (o : OpenSession) :
    ((s.begun n i o).session i).state = .opened (o.renewedAt s.now) := by
  simp [State.begun, State.renewed]

theorem begun_hand {n : Nat} (r : Reply) (ha : (s.chan n).state = .active) :
    (s.begun n i o).hand n r = (s.renewed i o).answered n r :=
  popRequest_setSession_hand ha

/-- A claim freed after a request of its channel has begun, or before. -/
theorem withFreedClaim_begun {o' : OpenSession} (n : Nat) (hch : o'.channel = n) :
    (s.begun n i o).withFreedClaim i o' c w e = (s.withFreedClaim i o' c w e).popRequest n := by
  subst hch
  simp [State.begun, State.withFreedClaim, State.popRequest, State.renewed, State.dropNotices, State.setChan, State.setSession,
    State.chan, State.session, State.claim]

theorem chan_withFreedClaim (s : State) (i : Nat) (o : OpenSession) (c w : Nat) (e : Entry) (n : Nat) :
    ((s.withFreedClaim i o c w e).chan n).state = (s.chan n).state := by
  show ((s.dropNotices o.channel _).chan n).state = _
  rw [State.chan_dropNotices]
  split_ifs with hn
  exacts [hn ▸ rfl, rfl]

/-- A claim freed and the value of its entry changed then, or the value changed with it. -/
theorem withFreedClaim_value (s : State) (i : Nat) (o : OpenSession) (c w : Nat) (e : Entry) (f : ValueBlock → ValueBlock) :
    (s.withFreedClaim i o c w e).modEntry w (fun e => { e with value := f e.value }) =
      s.withFreedClaim i o c w { e with value := f e.value } := by
  have hw : (s.withFreedClaim i o c w e).way w = .active (e.without c) := by
    simp [State.withFreedClaim, State.way, Entry.without]
  rw [modEntry_active _ hw]
  simp [State.withFreedClaim, State.setWay, Entry.without]

/-- A claim freed after its conversion has ended, or without. -/
theorem withFreedClaim_reverted (s : State) (i : Nat) (o : OpenSession) (c : Nat) (b : Claim) (e : Entry) (x : Mode) :
    (s.reverted c b e x).withFreedClaim i o c b.way { e with converts := e.converts.filter (· != c) } =
      s.withFreedClaim i o c b.way e := by
  simp [State.reverted, State.withFreedClaim, State.dropNotices, State.setChan, State.chan, State.session, State.claim]

/-- A CONVERTING claim answered, made HELD and freed (R64). -/
theorem answered_converting_freed {x m : Mode} {wait : Wait} {st : Status} (hb : s.claimAt c = some b)
    (hst : b.state = .converting x m wait) (ho : (s.session b.session).state = .opened o) (hw : s.way b.way = .active e) :
    ((s.answer c st true).endConversion c).freeClaim c = (s.withFreedClaim b.session o c b.way e).hand o.channel
      ⟨.convert, wait.tag, st, .claimMode (s.claimHandle c) (some x)⟩ := by
  have hclaim : (s.reverted c b e x).claimAt c = some { b with state := .held x } := by
    simp [State.reverted, State.claimAt, State.claim]
  have hway : (s.reverted c b e x).way b.way = .active { e with converts := e.converts.filter (· != c) } := by
    simp [State.reverted, State.way]
  have hsession : ((s.reverted c b e x).session b.session).state = .opened o := ho
  rw [answer_converting hb hst ho, endConversion_eq (by simpa using hb) hst (by simpa using hw), reverted_hand,
    freeClaim_eq (by simpa using hclaim) (by simpa using hsession) (by simpa using hway), withFreedClaim_hand,
    withFreedClaim_reverted]
  rfl

@[simp] theorem checkClaim_popRequest (s : State) (n m : Nat) (h : ClaimHandle) :
    (s.popRequest n).checkClaim m h = s.checkClaim m h := rfl

/-! ### RELEASE (R62 to R64) -/

/-- A RELEASE in range that names a claim of its client channel goes on to the checks of its kind (R45 to R48). -/
theorem exec_release {present invalidate : Bool} {value : ValueWord}
    (hn : s.nextRequest ch = some (.release ch tag h present invalidate value)) (hch : ch ≠ 0) (hs : s.namesClaim ch h c b o)
    (hflags : ¬(present = true ∧ invalidate = true)) :
    exec (.release ch tag h present invalidate value) s =
      .next ((s.begun ch b.session o).releaseChecked ch tag c b present invalidate value) := by
  obtain ⟨-, -, hb, ho, -⟩ := id hs
  have h0 : (ch : Nat) ≠ 0 := fun h => hch (Fin.ext h)
  rw [exec, execRelease, takeRequest_next hn, State.release, if_neg h0, if_neg (by simpa using hflags), checkClaim_popRequest,
    checkClaim_names hs]
  dsimp only
  rw [State.claimAt_popRequest, hb]
  dsimp only
  rw [renew_opened (s := s.popRequest ch) ho]
  rfl

/-- A claim of the channel freed by its own request, which is answered then (R28, R62). -/
theorem begun_freed_answered (hs : s.namesClaim ch h c b o) (ha : (s.chan ch).state = .active) (r : Reply) (e : Entry) :
    ((s.begun ch b.session o).withFreedClaim b.session (o.renewedAt s.now) c b.way e).hand ch r =
      (s.withFreedClaim b.session (o.renewedAt s.now) c b.way e).answered ch r := by
  obtain ⟨-, -, -, -, hch⟩ := hs
  rw [withFreedClaim_begun (o' := o.renewedAt s.now) ch hch, popRequest_hand]
  rwa [chan_withFreedClaim]

theorem releaseChecked_held {present invalidate : Bool} {value : ValueWord} {m : Mode} (hs : s.namesClaim ch h c b o)
    (ha : (s.chan ch).state = .active) (hw : s.way b.way = .active e) (hst : b.state = .held m)
    (hflags : (present = true ∨ invalidate = true) → m = .exclusive) :
    (s.begun ch b.session o).releaseChecked ch tag c b present invalidate value =
      (((s.withFreedClaim b.session (o.renewedAt s.now) c b.way { e with
        value := if present then .valid value else if invalidate then e.value.invalidated else e.value }).answered ch
          ⟨.release, tag, .ok, .header⟩).finish b.way) := by
  obtain ⟨-, -, hb, ho, -⟩ := id hs
  have hfree : (s.begun ch b.session o).freeClaim c = _ := freeClaim_eq (e := e) hb (session_begun ..) hw
  have hok : ¬((present || invalidate) && decide (m ≠ .exclusive)) = true := by simpa using hflags
  rw [State.releaseChecked, hst]
  dsimp only
  rw [if_neg hok, hfree]
  by_cases hm : m = .exclusive
  · rw [if_pos hm, withFreedClaim_value _ _ _ _ _ e fun v => v.written present invalidate value, State.reply,
      begun_freed_answered hs ha]
    rfl
  · have hp : present = false := Bool.eq_false_of_not_eq_true fun hp => hm (hflags (.inl hp))
    have hi : invalidate = false := Bool.eq_false_of_not_eq_true fun hi => hm (hflags (.inr hi))
    rw [if_neg hm, State.reply, begun_freed_answered hs ha, hp, hi]
    rfl

theorem releaseChecked_converting {value : ValueWord} {x m : Mode} {wait : Wait} (hs : s.namesClaim ch h c b o)
    (ha : (s.chan ch).state = .active) (hw : s.way b.way = .active e) (hst : b.state = .converting x m wait) :
    (s.begun ch b.session o).releaseChecked ch tag c b false false value =
      (((s.withFreedClaim b.session (o.renewedAt s.now) c b.way e).answered ch
        ⟨.convert, wait.tag, .cancelled, .claimMode h (some x)⟩).hand ch ⟨.release, tag, .ok, .header⟩).finish b.way := by
  obtain ⟨-, rfl, hb, ho, hch⟩ := id hs
  rw [State.releaseChecked, hst]
  dsimp only
  rw [if_neg (by simp), answered_converting_freed (s := s.begun ch b.session o) (e := e) hb hst (session_begun ..) hw, State.reply,
    show (o.renewedAt s.now).channel = ch from hch, begun_freed_answered hs ha]
  rfl

/-- What a RELEASE past the handle check is refused with when it frees nothing (R62, R64). -/
theorem exec_release_refused {present invalidate : Bool} {value : ValueWord} {st : Status}
    (hn : s.nextRequest ch = some (.release ch tag h present invalidate value)) (hch : ch ≠ 0) (hs : s.namesClaim ch h c b o)
    (hflags : ¬(present = true ∧ invalidate = true))
    (hr : (s.begun ch b.session o).releaseChecked ch tag c b present invalidate value =
      (s.begun ch b.session o).reply ch .release tag st) :
    exec (.release ch tag h present invalidate value) s =
      .next ((s.renewed b.session o).answered ch ⟨.release, tag, st, .header⟩) := by
  rw [exec_release hn hch hs hflags, hr, State.reply, begun_hand _ (nextRequest_active hn)]

end

/-- Settles O19: past the handle check the state of the claim decides. -/
theorem releaseFreesOrRefused : Obligations.ReleaseFreesOrRefused := by
  refine ⟨fun s ch tag h c b o p i v e hn hch hs hw hflags hx => ⟨fun m hst => ?_, fun x m wait hst hp hi => ?_⟩,
    fun s ch tag h c b o p i v hn hch hs hflags => ⟨fun m wait hst => ?_, fun x hst hx hpi => ?_⟩⟩
  · have hm (hpi : p = true ∨ i = true) : m = .exclusive := by simpa [hst, ClaimState.heldMode] using hx hpi
    rw [exec_release hn hch hs hflags, releaseChecked_held hs (nextRequest_active hn) hw hst hm]
  · subst hp hi
    rw [exec_release hn hch hs hflags, releaseChecked_converting hs (nextRequest_active hn) hw hst]
  · refine exec_release_refused hn hch hs hflags ?_
    rw [State.releaseChecked, hst]
  · refine exec_release_refused hn hch hs hflags ?_
    have hflag : (p || i) = true := by simpa using hpi
    rw [State.releaseChecked]
    rcases hs' : b.state with ⟨m, wait⟩ | m | ⟨y, m, wait⟩
    · simp [hs', ClaimState.heldMode] at hst
    · obtain rfl : m = x := by simpa [hs', ClaimState.heldMode] using hst
      dsimp only
      rw [if_pos (by simpa [hflag] using hx)]
    · dsimp only
      rw [if_pos hflag]

/-! ### ACQUIRE not grantable (R51, R52) -/

theorem waitDeadline_eq (s : State) (limit : BitVec 16) : waitDeadline s.now limit = s.waitUntil limit := by
  have hmax : limit = 0xFFFF ↔ limit.toNat = 65535 := ⟨fun h => by rw [h]; rfl, fun h => BitVec.eq_of_toNat_eq h⟩
  unfold waitDeadline State.waitUntil
  simp only [hmax]

section
variable {s : State} {ch : Fin 16} {tag : ReqTag} {h : SessionHandle} {i : Nat} {o : OpenSession} {k : Key} {m : Mode}
  {limit : BitVec 16} {w : Nat} {e : Entry}

/-- A claim in a queue, or a holder in an incompatible mode, keeps an ACQUIRE from being granted at arrival (R33). -/
theorem acquireGrantable_eq_false (hw : s.way w = .active e)
    (hblocked : e.converts ≠ [] ∨ e.waits ≠ [] ∨ ∃ d ∈ e.holders, ∃ x, s.heldMode d = some x ∧ x.compatible m = false) :
    s.acquireGrantable w m = false := by
  rw [State.acquireGrantable, entry_of_active hw]
  rcases hblocked with hc | hq | ⟨d, hd, x, hx, hcomp⟩
  · simp [hc]
  · simp [hq]
  · rw [admits_eq_false hd (by simp) hx hcomp, Bool.and_false]

/-- An ACQUIRE that passes its checks, of a key at an ACTIVE way, is taken there (R13). -/
theorem exec_acquire_active (hn : s.nextRequest ch = some (.acquire ch tag h (k.domain.setWidth 8) m.code limit k.name))
    (hp : s.AcquirePasses ch h i o k m) (hl : s.lookup k = some w) (hw : s.way w = .active e) :
    exec (.acquire ch tag h (k.domain.setWidth 8) m.code limit k.name) s =
      .next ((s.begun ch i o).acquireAtEntry s.pickClaim ch tag i w m limit) := by
  have hplace : (s.begun ch i o).place k = some (w, s.begun ch i o) := by
    rw [State.place, show (s.begun ch i o).lookup k = some w from hl]
    dsimp only
    rw [show (s.begun ch i o).way w = .active e from hw]
  rw [exec_acquire hn hp.client hp.session, acquireChecked_passes hp, hplace]

/-- A claim made to wait by the request of its channel (R26, R51). -/
theorem allocate_begun {c : Nat} {wait : Wait} (hw : s.way w = .active e) :
    (s.begun ch i o).allocate c i w (.waiting m wait) =
      { s.withNewClaim i o c ⟨i, w, .waiting m wait, none, false⟩ with
        ways := s.ways.set w (.active { e with waits := e.waits ++ [c] }) }.popRequest ch := by
  rw [allocate_eq (session_begun s ch i o) (show (s.begun ch i o).way w = .active e from hw)]
  simp [State.begun, State.renewed, State.popRequest, State.withNewClaim, State.setSession, State.setChan, State.session,
    State.claim, State.chan, ClaimState.heldMode, OpenSession.renewedAt]

end

/-- Settles O13: what keeps the ACQUIRE from being granted leaves the wait limit to decide. -/
theorem acquireNotGrantable : Obligations.AcquireNotGrantable := by
  intro s ch tag h i o k m limit w e hn hp hl hw hblocked
  have hgrant : (s.begun ch i o).acquireGrantable w m = false := acquireGrantable_eq_false (e := e) hw hblocked
  obtain ⟨hfree, hlt⟩ := pickClaim_free s hp.record
  rw [exec_acquire_active hn hp hl hw, State.acquireAtEntry, hgrant]
  refine ⟨fun h0 => ?_, fun h0 => ⟨s.pickClaim, hlt, hfree, ?_⟩⟩
  · rw [if_neg Bool.false_ne_true, if_pos h0, State.reply, begun_hand _ (nextRequest_active hn)]
  · rw [if_neg Bool.false_ne_true, if_neg h0, allocate_begun hw]
    rw [← waitDeadline_eq]
    rfl

end Sys2Proof.Machine
end

section
/-! PROOFS. Grants and removals (R35 to R39): what a grant makes of a claim, CONVERT upward (R57), and the queues served. -/

namespace Sys2Proof.Machine

section
variable {s : State} {ch : Fin 16} {tag : ReqTag} {c i w : Nat} {h : ClaimHandle} {b : Claim} {o : OpenSession} {e : Entry}
  {m : Mode} {f : Entry → Entry}

/-! ### A claim raised to another mode (R35, R57) -/

/-- The state with the noticed flag of claim `c` clear and its CONTENTION notice gone from channel `n` (R42, R147). -/
def State.unnoticed (s : State) (n c : Nat) (b : Claim) : State :=
  { s.dropNotices n (Notice.contentionOf c) with
    claims := s.claims.set c ⟨(s.claim c).tag, some { b with noticed := false }⟩ }

theorem clearNoticed_eq (hb : s.claimAt c = some b) (ho : (s.session b.session).state = .opened o) :
    s.clearNoticed c = s.unnoticed o.channel c b := by
  have hchan : (s.setClaim c ⟨(s.claim c).tag, some { b with noticed := false }⟩).claimChannel c = some o.channel :=
    claimChannel_opened (b := { b with noticed := false }) (by simp) (by simpa using ho)
  rw [State.clearNoticed, modClaim_some _ hb, State.dropContention, hchan]
  rfl

/-- A claim cleared of its notice and HELD in mode `m`, its entry changed by `f` before. -/
theorem hold_clearNoticed (hb : s.claimAt c = some b) (ho : (s.session b.session).state = .opened o)
    (hw : s.way w = .active e) :
    (((s.clearNoticed c).modEntry w f).hold c w m) = s.withRaised o.channel c w b (f e) m := by
  have hclaim : ((s.unnoticed o.channel c b).setWay w (.active (f e))).claimAt c = some { b with noticed := false } := by
    simp [State.unnoticed, State.claimAt, State.claim, State.setWay]
  have hserial : (if m = .exclusive then s.nextSerial.or b.serial else b.serial) = (s.serialFor m).or b.serial := by
    rw [State.serialFor]
    split_ifs <;> simp
  rw [clearNoticed_eq hb ho, modEntry_active f (show (s.unnoticed o.channel c b).way w = .active e from hw),
    hold_eq (e := f e) hclaim (by simp)]
  rw [State.withRaised, ← hserial]
  simp [State.unnoticed, State.setWay, State.claim, State.serialFor, State.counterAfter]

/-- The serial of a GRANTED reply: that drawn, or 0 for S and U (R39). -/
theorem granted_serial (hx : m = .exclusive → s.nextSerial ≠ none) (n : Serial) :
    (if m = .exclusive then (s.serialFor m).getD n else 0) = (s.serialFor m).getD 0 := by
  rw [State.serialFor]
  split_ifs with hm
  · obtain ⟨n, hn⟩ := Option.ne_none_iff_exists'.mp (hx hm)
    rw [hn]
    rfl
  · rfl

/-- A conversion granted (R35, R39, R57). -/
theorem grant_raised (hb : s.claimAt c = some b) (ho : (s.session b.session).state = .opened o) (hw : s.way w = .active e)
    (hx : m = .exclusive → s.nextSerial ≠ none) :
    ((s.clearNoticed c).modEntry w f).grant .convert tag c w m = (s.withRaised o.channel c w b (f e) m).hand o.channel
      ⟨.convert, tag, .granted, .granted (s.claimHandle c) m (f e).value s.now ((s.serialFor m).getD 0)⟩ := by
  have hchan : (s.withRaised o.channel c w b (f e) m).claimChannel c = some o.channel :=
    claimChannel_opened (b := { b with state := .held m, noticed := false, serial := (s.serialFor m).or b.serial })
      (by simp [State.withRaised, State.claimAt, State.claim]) ho
  have hway : (s.withRaised o.channel c w b (f e) m).way w = .active { f e with serial := (s.serialFor m).getD (f e).serial } := by
    simp [State.withRaised, State.way]
  have hhandle : (s.withRaised o.channel c w b (f e) m).claimHandle c = s.claimHandle c := by
    simp [State.withRaised, State.claimHandle, State.claim]
  rw [State.grant, hold_clearNoticed hb ho hw, State.handClaim, hchan, State.grantedReply, entry_of_active hway, hhandle,
    granted_serial hx]
  rfl

/-! ### CONVERT upward (R33, R57) -/

/-- A CONVERT in range that names a claim of its client channel goes on to the checks of its kind (R45 to R48). -/
theorem exec_convert {p i : Bool} {limit : BitVec 16} {value : ValueWord}
    (hn : s.nextRequest ch = some (.convert ch tag h m.code p i limit value)) (hch : ch ≠ 0) (hs : s.namesClaim ch h c b o)
    (hflags : ¬(p = true ∧ i = true)) :
    exec (.convert ch tag h m.code p i limit value) s =
      .next ((s.begun ch b.session o).convertChecked ch tag c b m p i limit value) := by
  obtain ⟨-, -, hb, ho, -⟩ := id hs
  have h0 : (ch : Nat) ≠ 0 := fun h => hch (Fin.ext h)
  rw [exec, execConvert, takeRequest_next hn, State.convert, if_neg h0, Mode.ofCode_code]
  dsimp only
  rw [if_neg (by simpa using hflags), checkClaim_popRequest, checkClaim_names hs]
  dsimp only
  rw [State.claimAt_popRequest, hb]
  dsimp only
  rw [renew_opened (s := s.popRequest ch) ho]
  rfl

/-- With no pending conversion to U a conversion to X fails none (R60). -/
theorem failConversions_of_none (hw : s.way w = .active e) (h : ∀ d ∈ e.converts, s.wantedMode d ≠ some .update) :
    s.failConversions w = s := by
  have hnone : e.converts.filter (fun d => decide (s.wantedMode d = some .update)) = [] :=
    List.filter_eq_nil_iff.mpr fun d hd => by simpa using h d hd
  rw [State.failConversions, entry_of_active hw, hnone]
  rfl

/-- An upgrade in order, with no pending conversion of the other kind, goes on to be granted, refused or made to wait (R55). -/
theorem convertChecked_upgrade {limit : BitVec 16} {value : ValueWord} {held : Mode} (hst : b.state = .held held)
    (hkind : (held = .shared ∧ m = .update) ∨ (held = .update ∧ m = .exclusive)) (hw : s.way b.way = .active e)
    (hacc : (s.chan ch).access.get e.key.domain.toNat = .full) (hx : m = .exclusive → s.nextSerial ≠ none)
    (hother : ∀ d ∈ e.converts, (m = .exclusive → s.wantedMode d ≠ some .update) ∧
      (m = .update → s.wantedMode d ≠ some .exclusive)) :
    s.convertChecked ch tag c b m false false limit value =
      if s.upgradeGrantable c b.way m then ((s.clearNoticed c).grant .convert tag c b.way m).finish b.way
      else if limit = 0 then (s.refuseConvert ch tag c .conflict).finish b.way
      else ((s.modClaim c fun b => { b with state := .converting held m ⟨tag, waitDeadline s.now limit⟩ }).modEntry b.way fun e =>
        { e with converts := e.converts ++ [c] }).finish b.way := by
  have hupgrade : conversionKind held m = .upgrade := by
    rcases hkind with ⟨rfl, rfl⟩ | ⟨rfl, rfl⟩ <;> rfl
  have hpending : ¬(m = .update ∧ s.exclusivePending b.way = true) := by
    rintro ⟨hm, hp⟩
    rw [State.exclusivePending, entry_of_active hw] at hp
    obtain ⟨d, hd, hwanted⟩ := List.any_eq_true.mp hp
    exact (hother d hd).2 hm (by simpa using hwanted)
  have hfail : (if m = .exclusive then s.failConversions b.way else s) = s := by
    split_ifs with hm
    exacts [failConversions_of_none hw fun d hd => (hother d hd).1 hm, rfl]
  rw [State.convertChecked, if_neg (by simp [entry_of_active hw, hacc]), hst]
  dsimp only
  rw [State.convertHeld, hupgrade]
  dsimp only
  rw [if_neg (by simp), if_neg fun h => hx h.1 h.2, if_neg hpending, State.upgrade]
  rw [hfail]

theorem upgradeGrantable_of_compatible (hw : s.way w = .active e) (hc : e.converts = [])
    (hadm : ∀ d ∈ e.holders, d ≠ c → ∀ x, s.heldMode d = some x → x.compatible m = true) :
    s.upgradeGrantable c w m = true := by
  rw [State.upgradeGrantable, entry_of_active hw, hc, decide_eq_true rfl, Bool.true_and, admits_iff]
  exact fun d hd hne => hadm d hd (by simpa using hne)

theorem upgradeGrantable_eq_false (hw : s.way w = .active e)
    (hblocked : e.converts ≠ [] ∨ ∃ d ∈ e.holders, d ≠ c ∧ ∃ x, s.heldMode d = some x ∧ x.compatible m = false) :
    s.upgradeGrantable c w m = false := by
  rw [State.upgradeGrantable, entry_of_active hw]
  rcases hblocked with hc | ⟨d, hd, hne, x, hx, hcomp⟩
  · simp [hc]
  · rw [admits_eq_false hd (by simpa using hne) hx hcomp, Bool.and_false]

/-- A claim raised after the request of its channel has begun, or before. -/
theorem withRaised_begun (n : Nat) :
    (s.begun n i o).withRaised n c w b e m = ((s.renewed i o).withRaised n c w b e m).popRequest n := by
  simp [State.begun, State.withRaised, State.popRequest, State.renewed, State.dropNotices, State.setChan, State.setSession,
    State.chan, State.claim, State.session, State.serialFor, State.counterAfter]

theorem chan_withRaised (s : State) (n c w : Nat) (b : Claim) (e : Entry) (m : Mode) (k : Nat) :
    ((s.withRaised n c w b e m).chan k).state = (s.chan k).state := by
  show ((s.dropNotices n _).chan k).state = _
  rw [State.chan_dropNotices]
  split_ifs with hn
  exacts [hn ▸ rfl, rfl]

theorem modEntry_id (hw : s.way w = .active e) : s.modEntry w (fun e => e) = s := by
  rw [modEntry_active _ hw, State.setWay, ← hw]
  show { s with ways := s.ways.set w (s.ways.get w) } = s
  rw [Table.set_get]

/-- A claim made to wait in the convert queue by the request of its channel (R57). -/
theorem converting_begun {n : Nat} {x : Mode} {wait : Wait} (hb : s.claimAt c = some b) (hw : s.way w = .active e) :
    (((s.begun n i o).modClaim c fun b => { b with state := .converting x m wait }).modEntry w fun e =>
        { e with converts := e.converts ++ [c] }) =
      { s.renewed i o with
        claims := s.claims.set c ⟨(s.claim c).tag, some { b with state := .converting x m wait }⟩
        ways := s.ways.set w (.active { e with converts := e.converts ++ [c] }) }.popRequest n := by
  rw [modClaim_some (s := s.begun n i o) _ hb, modEntry_active (s := (s.begun n i o).setClaim ..) _ hw]
  rfl

end

/-- Settles O16: with no conversion of the other kind pending, the holders and the queue decide, and then the wait limit. -/
theorem convertUpgrades : Obligations.ConvertUpgrades := by
  intro s ch tag h c b o held m limit value e hn hch hs hst hkind hw hacc hx hother
  obtain ⟨-, rfl, hb, ho, hchan⟩ := id hs
  have ha := nextRequest_active hn
  have haccess : ((s.begun ch b.session o).chan ch).access.get e.key.domain.toNat = .full := by
    rw [← hacc, ← popChan_access s ch]
    rfl
  have hchecked := convertChecked_upgrade (s := s.begun ch b.session o) (ch := ch) (tag := tag) (c := c)
    (limit := limit) (value := value)
    hst hkind hw haccess hx hother
  rw [exec_convert hn hch hs (by simp), hchecked]
  refine ⟨fun hc hadm => ?_, fun hblocked => ?_⟩
  · have hgrantable : (s.begun ch b.session o).upgradeGrantable c b.way m = true := upgradeGrantable_of_compatible hw hc hadm
    have hgrant := grant_raised (s := s.begun ch b.session o) (tag := tag) (f := fun e => e) hb (session_begun ..) hw hx
    have hway : ((s.begun ch b.session o).clearNoticed c).way b.way = .active e := by rw [State.way_clearNoticed]; exact hw
    have hactive : (((s.renewed b.session o).withRaised ch c b.way b e m).chan ch).state = .active := by
      rw [chan_withRaised]
      exact ha
    rw [modEntry_id hway, show (o.renewedAt s.now).channel = ch from hchan, withRaised_begun, popRequest_hand _ hactive] at hgrant
    rw [if_pos hgrantable, hgrant]
    rfl
  · have hgrantable : (s.begun ch b.session o).upgradeGrantable c b.way m = false := upgradeGrantable_eq_false hw hblocked
    rw [hgrantable]
    refine ⟨fun h0 => ?_, fun h0 => ?_⟩
    · rw [if_neg Bool.false_ne_true, if_pos h0, State.refuseConvert, begun_hand _ ha]
      have hheld : (s.begun ch b.session o).heldMode c = some held := by
        show s.heldMode c = _
        rw [State.heldMode, hb, Option.bind_some, hst]
        rfl
      rw [hheld]
      rfl
    · rw [if_neg Bool.false_ne_true, if_neg h0, converting_begun hb hw]
      rw [← waitDeadline_eq]
      rfl

end Sys2Proof.Machine
end

section
/-! PROOFS. The queues served by the end of an event (R35 to R39): one conversion, one waiter, and two that want the last serial. -/

namespace Sys2Proof.Machine

section
variable {s t : State} {c w : Nat} {b : Claim} {o : OpenSession} {e : Entry} {m x : Mode} {wait : Wait}

/-! ### The end of an event behind its turns (R34, R40) -/

/-- With empty queues and a holder nobody is told and the way stays (R14, R41). -/
theorem settle_tellHolders (h : s.way w = .active e) (hc : e.converts = []) (hw : e.waits = []) (hh : e.holders ≠ []) :
    (s.tellHolders w).settle w = s := by
  have htell : s.tellHolders w = s := by simp [State.tellHolders, entry_of_active h, Entry.blockingHead, hc, hw]
  rw [htell, settle_of_holders h hh]

/-- The event ends with the one turn that the one pending conversion takes (R35). -/
theorem finish_of_convertTurn {e' : Entry} (hway : s.way w = .active e) (hq : e.converts = [c]) (hturn : s.convertTurn w = some t)
    (ht : t.way w = .active e') (hc : e'.converts = []) (hw : e'.waits = []) (hh : e'.holders ≠ []) : s.finish w = t := by
  have hconvert : repeatTurn (·.convertTurn w) (s.entry w).converts.length s = t := by
    rw [entry_of_active hway, hq, List.length_singleton, repeatTurn, hturn]
    rfl
  rw [State.finish, State.grantPass, hconvert, entry_of_active ht, hw]
  exact settle_tellHolders ht hc hw hh

/-- With no pending conversion the event ends with the turns of the wait queue (R36). -/
theorem finish_of_waitTurns {e' : Entry} (hway : s.way w = .active e) (hq : e.converts = [])
    (hturns : repeatTurn (·.waitTurn w) e.waits.length s = t) (ht : t.way w = .active e') (hc : e'.converts = [])
    (hw : e'.waits = []) (hh : e'.holders ≠ []) : s.finish w = t := by
  have hconvert : repeatTurn (·.convertTurn w) (s.entry w).converts.length s = s := by rw [entry_of_active hway, hq]; rfl
  rw [State.finish, State.grantPass, hconvert, entry_of_active hway, hturns]
  exact settle_tellHolders ht hc hw hh

/-! ### The turns (R35, R36, R38) -/

theorem convertTurn_grants {rest : List Nat} (hway : s.way w = .active e) (hq : e.converts = c :: rest)
    (hb : s.claimAt c = some b) (hst : b.state = .converting x m wait) (ho : (s.session b.session).state = .opened o)
    (hx : m = .exclusive → s.nextSerial ≠ none)
    (hadm : ∀ d ∈ e.holders, d ≠ c → ∀ y, s.heldMode d = some y → y.compatible m = true) :
    s.convertTurn w = some ((s.withRaised o.channel c w b { e with converts := e.converts.filter (· != c) } m).hand o.channel
      ⟨.convert, wait.tag, .granted, .granted (s.claimHandle c) m e.value s.now ((s.serialFor m).getD 0)⟩) := by
  have hadmits : s.admits e m (some c) = true := admits_iff.mpr fun d hd hne => hadm d hd (by simpa using hne)
  rw [State.convertTurn, entry_of_active hway]
  simp only [hq]
  rw [hb]
  dsimp only
  rw [hst]
  dsimp only
  rw [if_neg fun h => hx h.1 h.2, if_pos hadmits, grant_raised hb ho hway hx, hq]

theorem convertTurn_removes {rest : List Nat} (hway : s.way w = .active e) (hq : e.converts = c :: rest)
    (hb : s.claimAt c = some b) (hst : b.state = .converting x .exclusive wait) (hx : s.nextSerial = none) :
    s.convertTurn w = some (s.endWait c .serialExhausted) := by
  rw [State.convertTurn, entry_of_active hway, hq]
  dsimp only
  rw [hb]
  dsimp only
  rw [hst]
  dsimp only
  rw [if_pos ⟨rfl, hx⟩]

end

/-- Settles O26: the one conversion takes the one turn of the pass. -/
theorem passServesConversion : Obligations.PassServesConversion := by
  intro s w e c b o x m wait hway hq hw hmem hb hst hbw ho
  have hholders : e.holders ≠ [] := List.ne_nil_of_mem hmem
  have hfilter : e.converts.filter (· != c) = [] := by simp [hq]
  refine ⟨fun hx hadm => ?_, fun hm hx => ?_⟩
  · have hturn := convertTurn_grants hway hq hb hst ho hx hadm
    rw [hfilter] at hturn
    refine finish_of_convertTurn hway hq hturn (e' := { e with converts := [], serial := (s.serialFor m).getD e.serial })
      ?_ rfl hw hholders
    rw [State.way_hand]
    simp [State.withRaised, State.way]
  · subst hm hbw
    have hturn := convertTurn_removes hway hq hb hst hx
    rw [endWait_converting hb hst ho hway, State.reverted, hfilter] at hturn
    refine finish_of_convertTurn hway hq hturn (e' := { e with converts := [] }) ?_ rfl hw hholders
    rw [State.way_hand]
    simp [State.way]

section
variable {s t : State} {c w : Nat} {b : Claim} {o : OpenSession} {e : Entry} {m x : Mode} {wait : Wait}

/-- The tables after the WAITING claim `c` is granted by the pass at way `w`, whose entry was `e` (R36, R37). -/
def State.served (s : State) (c w : Nat) (b : Claim) (e : Entry) (m : Mode) : State :=
  { s with
    claims := s.claims.set c ⟨(s.claim c).tag, some { b with state := .held m, serial := (s.serialFor m).or b.serial }⟩
    ways := s.ways.set w (.active { e with
      holders := e.holders ++ [c], waits := e.waits.filter (· != c), serial := (s.serialFor m).getD e.serial })
    nextSerial := s.counterAfter m }

theorem way_served : (s.served c w b e m).way w = .active { e with
    holders := e.holders ++ [c], waits := e.waits.filter (· != c), serial := (s.serialFor m).getD e.serial } := by
  simp [State.served, State.way]

theorem hold_served (hb : s.claimAt c = some b) (hway : s.way w = .active e) :
    ((s.modEntry w fun e => { e with waits := e.waits.filter (· != c), holders := e.holders ++ [c] }).hold c w m) =
      s.served c w b e m := by
  have hserial : (if m = .exclusive then s.nextSerial.or b.serial else b.serial) = (s.serialFor m).or b.serial := by
    rw [State.serialFor]
    split_ifs <;> simp
  rw [modEntry_active _ hway, hold_eq (b := b) (e := { e with waits := e.waits.filter (· != c), holders := e.holders ++ [c] })
    (by simpa using hb) (by simp)]
  rw [State.served, ← hserial]
  simp [State.setWay, State.claim, State.serialFor, State.counterAfter]

theorem waitTurn_grants {rest : List Nat} (hway : s.way w = .active e) (hc : e.converts = []) (hq : e.waits = c :: rest)
    (hb : s.claimAt c = some b) (hst : b.state = .waiting m wait) (ho : (s.session b.session).state = .opened o)
    (hx : m = .exclusive → s.nextSerial ≠ none)
    (hadm : ∀ d ∈ e.holders, ∀ y, s.heldMode d = some y → y.compatible m = true) :
    s.waitTurn w = some ((s.served c w b e m).hand o.channel
      ⟨.acquire, wait.tag, .granted, .granted (s.claimHandle c) m e.value s.now ((s.serialFor m).getD 0)⟩) := by
  have hchan : (s.served c w b e m).claimChannel c = some o.channel :=
    claimChannel_opened (b := { b with state := .held m, serial := (s.serialFor m).or b.serial })
      (by simp [State.served, State.claimAt, State.claim]) ho
  have hhandle : (s.served c w b e m).claimHandle c = s.claimHandle c := by
    simp [State.served, State.claimHandle, State.claim]
  rw [State.waitTurn, entry_of_active hway, if_neg (by simp [hc]), hq]
  dsimp only
  rw [hb]
  dsimp only
  rw [hst]
  dsimp only
  rw [if_neg fun h => hx h.1 h.2, if_pos (admits_of_compatible hadm), State.grant, hold_served hb hway, State.handClaim, hchan,
    State.grantedReply, entry_of_active way_served, hhandle, granted_serial hx]
  rfl

theorem waitTurn_removes {rest : List Nat} (hway : s.way w = .active e) (hc : e.converts = []) (hq : e.waits = c :: rest)
    (hb : s.claimAt c = some b) (hst : b.state = .waiting .exclusive wait) (hx : s.nextSerial = none) :
    s.waitTurn w = some (s.endWait c .serialExhausted) := by
  rw [State.waitTurn, entry_of_active hway, if_neg (by simp [hc]), hq]
  dsimp only
  rw [hb]
  dsimp only
  rw [hst]
  dsimp only
  rw [if_pos ⟨rfl, hx⟩]

theorem repeatTurn_one {turn : State → Option State} (h : turn s = some t) : repeatTurn turn 1 s = t := by
  rw [repeatTurn, h]
  rfl

theorem way_withFreedClaim (s : State) (i : Nat) (o : OpenSession) (c w : Nat) (e : Entry) :
    (s.withFreedClaim i o c w e).way w = .active (e.without c) := by
  simp [State.withFreedClaim, State.way, Entry.without]

end

/-- Settles O25: each waiter takes a turn of the pass, the second of two behind the draw of the first. -/
theorem passServesWaiter : Obligations.PassServesWaiter := by
  refine ⟨fun s w e c b o m wait hway hc hq hb hst hbw ho => ⟨fun hx hadm => ?_, fun hm hx hh hnot => ?_⟩,
    fun s w e c d b bd o od wait waitd hway hh hc hq hne hb hst hbw hbd hstd hbdw ho hnotices hod hx => ?_⟩
  · have hturn := waitTurn_grants hway hc hq hb hst ho hx hadm
    rw [State.served, show e.waits.filter (· != c) = [] by simp [hq]] at hturn
    refine finish_of_waitTurns hway hc (by rw [hq]; exact repeatTurn_one hturn)
      (e' := { e with holders := e.holders ++ [c], waits := [], serial := (s.serialFor m).getD e.serial }) ?_ hc rfl (by simp)
    rw [State.way_hand]
    simp [State.way]
  · subst hm hbw
    have hturn := waitTurn_removes hway hc hq hb hst hx
    rw [endWait_waiting hb hst ho hway] at hturn
    refine finish_of_waitTurns hway hc (by rw [hq]; exact repeatTurn_one hturn) (e' := e.without c) ?_ ?_ ?_ ?_
    · rw [State.way_hand, way_withFreedClaim]
    · simp [Entry.without, hc]
    · simp [Entry.without, hq]
    · rwa [Entry.without, List.filter_eq_self.mpr fun k hk => by simpa using ne_of_mem_of_not_mem hk hnot]
  · have hfilter : e.waits.filter (· != c) = [d] := by simp [hq, Ne.symm hne]
    have hserial : s.serialFor .exclusive = some 0xFFFFFFFFFFFF := by rw [State.serialFor, if_pos rfl, hx]
    have hcounter : s.counterAfter .exclusive = none := by rw [State.counterAfter, hserial]; rfl
    intro left granted
    have hserved : s.served c w b e .exclusive = { s with
        claims := s.claims.set c ⟨(s.claim c).tag, some { b with state := .held .exclusive, serial := some 0xFFFFFFFFFFFF }⟩
        ways := s.ways.set w (.active left)
        nextSerial := none } := by
      rw [State.served, hserial, hcounter, hfilter, hh]
      rfl
    have hfirst := waitTurn_grants hway hc hq hb hst ho (by simp [hx]) (by simp [hh])
    rw [hserved, hserial] at hfirst
    have hleft : granted.way w = .active left := by
      rw [State.way_hand]
      simp [State.way]
    have hclaim : granted.claimAt d = some bd := by
      rw [State.claimAt_hand]
      simpa [State.claimAt, State.claim, Ne.symm hne] using hbd
    have hsession : (granted.session bd.session).state = .opened od := by
      rw [State.session_hand]
      exact hod
    have hsecond := waitTurn_removes hleft hc rfl hclaim hstd (by rw [State.hand_nextSerial])
    subst hbdw
    rw [endWait_waiting hclaim hstd hsession hleft] at hsecond
    refine finish_of_waitTurns hway hc ?_ (e' := left.without d) ?_ ?_ ?_ ?_
    · rw [hq, List.length_cons, repeatTurn, hfirst]
      exact repeatTurn_one hsecond
    · rw [State.way_hand, way_withFreedClaim]
    · simp [Entry.without, left, hc]
    · simp [Entry.without, left]
    · simp [Entry.without, left, hne]

end Sys2Proof.Machine
end

section
/-! PROOFS. Contention told (R41, R142, R143). -/

namespace Sys2Proof.Machine

section
variable {s : State} {c d w : Nat} {b : Claim} {o : OpenSession} {e : Entry} {m held : Mode} {queue : QueueKind}

theorem raise_contention (s : State) (ch : Nat) {n : Notice} (ha : (s.chan ch).state = .active)
    (hn : ∀ u : State, u.markLapse n true = u) :
    s.raise ch n = if (s.chan ch).notices = [] ∧ 1 ≤ (s.chan ch).unreserved then s.setChan ch ((s.chan ch).issue n.bytes)
      else s.setChan ch { s.chan ch with notices := (s.chan ch).notices ++ [n] } := by
  unfold State.raise
  dsimp only
  rw [if_pos ha, hn]

/-- The CONTENTION notice of holder `d` at way `w`, for a head that wants mode `m` in queue `queue` (R143). -/
def State.contentionNotice (s : State) (d : Nat) (b : Claim) (e : Entry) (held m : Mode) (queue : QueueKind) : Notice :=
  .contention d (s.claimHandle d) (s.sessionHandle b.session) e.key held m queue s.now

/-- A holder that qualifies is told of the head (R41). -/
theorem tell_qualified (hway : s.way w = .active e) (hne : d ≠ c) (hb : s.claimAt d = some b)
    (hheld : b.state.heldMode = some held) (hwanted : s.wantedMode c = some m) (hcomp : held.compatible m = false)
    (hnot : b.noticed = false) (ho : (s.session b.session).state = .opened o) (hon : o.notices = true)
    (ha : (s.chan o.channel).state = .active) :
    s.tell w c queue d = (s.raise o.channel (s.contentionNotice d b e held m queue)).setClaim d
      ⟨(s.claim d).tag, some { b with noticed := true }⟩ := by
  have hmode : s.heldMode d = some held := by rw [State.heldMode, hb, Option.bind_some, hheld]
  have htold : s.canBeTold b.session = true := by
    rw [State.canBeTold, ho]
    simp [hon, ha]
  rw [State.tell, hb, hmode, hwanted]
  dsimp only
  rw [if_pos ⟨hne, hcomp, hnot, htold⟩, claimChannel_opened hb ho]
  dsimp only
  rw [modClaim_some (b := b) _ (by simpa using hb), State.claim_raise, entry_of_active hway]
  rfl

/-- With a blocked head the event ends with its contention step (R40, R41). -/
theorem finish_of_blocked (hway : s.way w = .active e)
    (hhead : e.converts.head? = some c ∨ (e.converts = [] ∧ e.waits.head? = some c)) (hwanted : s.wantedMode c = some m)
    (hser : m = .exclusive → s.nextSerial ≠ none) (hd : d ∈ e.holders) (hne : d ≠ c) (hx : s.heldMode d = some held)
    (hcomp : held.compatible m = false) : s.finish w = (s.tellHolders w).settle w := by
  have hconvert : s.convertTurn w = none := convertTurn_blocked hway (hhead.imp_right And.left) hwanted hser hd hne hx hcomp
  have hwait : s.waitTurn w = none := by
    refine waitTurn_blocked hway (hhead.imp (fun h hn => ?_) And.right) hwanted hser hd hx hcomp
    simp [hn] at h
  rw [State.finish, State.grantPass]
  rw [repeatTurn_none (turn := (·.convertTurn w)) hconvert, repeatTurn_none (turn := (·.waitTurn w)) hwait]

theorem tell_head (s : State) (w c : Nat) (queue : QueueKind) : s.tell w c queue c = s :=
  tell_eq_self fun h => absurd rfl h

/-- The contention step tells the one holder other than the head (R41). -/
theorem tellHolders_one (hway : s.way w = .active e) (hblock : e.blockingHead = some (c, queue))
    (hh : e.holders = [d] ∨ e.holders = [c, d] ∨ e.holders = [d, c]) : s.tellHolders w = s.tell w c queue d := by
  rw [State.tellHolders, entry_of_active hway, hblock]
  rcases hh with hh | hh | hh <;> simp [hh, tell_head]

end

/-- Settles O27: the head is blocked by the one other holder, which alone is told. -/
theorem passTellsHolder : Obligations.PassTellsHolder := by
  intro s w e c d b o held m wait queue rest hway hne hcase hb hheld hcomp hser hnot ho hon ha
  have hblock : e.blockingHead = some (c, queue) := by
    rcases hcase with ⟨rfl, hc, hw, -⟩ | ⟨rfl, hc, -⟩ <;> simp [Entry.blockingHead, *]
  have hwanted : s.wantedMode c = some m := by
    rcases hcase with ⟨-, -, -, -, hst⟩ | ⟨-, -, -, x, hst⟩ <;> obtain ⟨y, hy, hst⟩ := Option.map_eq_some_iff.mp hst <;>
      simp [State.wantedMode, hy, hst, ClaimState.wantedMode]
  have hh : e.holders = [d] ∨ e.holders = [c, d] ∨ e.holders = [d, c] := hcase.imp (·.2.2.2.1) (·.2.2.1)
  have hd : d ∈ e.holders := by rcases hh with hh | hh | hh <;> simp [hh]
  have hmode : s.heldMode d = some held := by rw [State.heldMode, hb, Option.bind_some, hheld]
  have htold := tell_qualified (queue := queue) hway hne hb hheld hwanted hcomp hnot ho hon ha
  have hfinish : s.finish w = s.tell w c queue d := by
    rw [finish_of_blocked hway (blockingHead_cases hblock) hwanted hser hd hne hmode hcomp, tellHolders_one hway hblock hh]
    refine settle_of_holders (e := e) ?_ (List.ne_nil_of_mem hd)
    rw [htold, State.way_setClaim, State.way_raise, hway]
  rw [hfinish, htold, raise_contention s o.channel ha fun _ => rfl]
  refine ⟨fun hn hu => ?_, fun hn => ?_⟩
  · rw [if_pos ⟨hn, hu⟩]
    rfl
  · rw [if_neg fun ⟨h1, h2⟩ => hn.elim (fun h => h h1) fun h => by omega]
    rfl

end Sys2Proof.Machine
end

section
/-! PROOFS. The handle check of every request that carries a handle (R29, R47, R75, R84, R156). -/

namespace Sys2Proof.Machine

section
variable {s : State} {ch : Fin 16} {c : Instr} {tag : ReqTag} {h : SessionHandle} {r : Reply}

/-! ### The checks in the words of the statements -/

/-- Where a session handle is looked for: on channel 0 among all sessions, on another among its own (R75, R84). -/
def sessionScope (ch : Nat) : Option Nat := if ch = 0 then none else some ch

theorem sessionScope_iff {ch n : Nat} : (sessionScope ch = none ∨ sessionScope ch = some n) ↔ ch = 0 ∨ ch = n := by
  unfold sessionScope
  split_ifs with h <;> simp [h]

theorem checkSession_unknown {n : Nat} (hk : ¬s.knowsSession n h) : s.checkSession (sessionScope n) h = .bad := by
  unfold State.checkSession
  split_ifs with hbad
  · rfl
  · obtain ⟨hne, htag⟩ := not_or.mp hbad
    have hno (k : Nat) (hch : (s.session (sessionIndex h)).channel = some k) : ¬(n = 0 ∨ n = k) := fun hn =>
      hk ⟨hne, not_not.mp htag, k, hch, hn⟩
    split
    · rfl
    · rename_i o ho
      rw [if_neg]
      rw [sessionScope_iff]
      exact hno _ (by rw [SessionRec.channel, ho])
    · rename_i l hl
      rw [if_neg]
      rw [sessionScope_iff]
      exact hno _ (by rw [SessionRec.channel, hl])

theorem checkSession_known_lapsed {n : Nat} {l : LapsedSession} (hk : s.knowsSession n h)
    (hl : (s.session (sessionIndex h)).state = .lapsed l) : s.checkSession (sessionScope n) h = .lapsed (sessionIndex h) := by
  obtain ⟨hne, htag, k, hch, hn⟩ := hk
  rw [SessionRec.channel, hl] at hch
  obtain rfl : l.channel = k := Option.some.inj hch
  rw [State.checkSession, if_neg (by simp [hne, htag]), hl]
  dsimp only
  rw [if_pos (sessionScope_iff.mpr hn)]

theorem claimHandleMalformed_eq_false {h : ClaimHandle} (hm : claimHandleMalformed h = false) : h.toNat < 2 ^ 23 := by
  have hbits : h.extractLsb' 23 9 = 0 := by simpa [claimHandleMalformed] using hm
  have hzero : h.toNat >>> 23 % 2 ^ 9 = 0 := by simpa using congrArg BitVec.toNat hbits
  rw [Nat.shiftRight_eq_div_pow] at hzero
  have hlt := h.isLt
  omega

theorem checkClaim_unknown {n : Nat} {h : ClaimHandle} (hk : ¬s.knowsClaim n h) : s.checkClaim n h = none := by
  unfold State.checkClaim
  split
  · rename_i b hb
    exact if_neg fun ⟨hm, htag, hch⟩ => hk ⟨claimHandleMalformed_eq_false hm, htag, b, hb, hch⟩
  · rfl

/-! ### The answers -/

/-- A request that only answers. -/
theorem taken_answered {n : Nat} (hn : s.nextRequest n = some c) (r : Reply) :
    (.next ((s.popRequest n).hand n r) : Host.Outcome State Fault Refusal) = .next (s.answered n r) :=
  congrArg _ (popRequest_hand r (nextRequest_active hn))

theorem mode_of_inRange {x : BitVec 8} (h : 1 ≤ x.toNat ∧ x.toNat ≤ 3) : ∃ m, Mode.ofCode x = some m := by
  have := Mode.ofCode_isNone x
  rw [decide_eq_true h] at this
  exact Option.ne_none_iff_exists'.mp fun hn => by simp [hn] at this

theorem key_of_inRange {d : BitVec 8} (n : Name) (h : d.toNat ≤ 15) : ∃ k, keyOf d n = some k := by
  have := keyOf_isNone d n
  rw [decide_eq_true h] at this
  exact Option.ne_none_iff_exists'.mp fun hn => by simp [hn] at this

/-- What a request is answered when its session handle does not pass (R75, R84). -/
abbrev SessionRefused (s : State) (c : Instr) (ch : Fin 16) (h : SessionHandle) : Prop :=
  (s.checkSession (sessionScope ch) h = .bad →
    exec c s = .next (s.answered ch ⟨c.replyKind, c.requestTag, .badHandle, .header⟩)) ∧
  (∀ i, s.checkSession (sessionScope ch) h = .lapsed i → c.replyKind ≠ .closeSession → c.replyKind ≠ .inspectSession →
    exec c s = .next (s.answered ch ⟨c.replyKind, c.requestTag, if ch = 0 then .wrongState else .lapsed, .header⟩))

theorem client_session_refused (hc : c.requestChannel = some ch) (hn : s.nextRequest ch = some c) (h0 : ch ≠ 0)
    (hclient : c.isClientRequest = true) (hrange : c.inRange = true) (hh : c.sessionArgument = some h) :
    SessionRefused s c ch h := by
  have hne : (ch : Nat) ≠ 0 := fun h => h0 (Fin.ext h)
  rw [SessionRefused, sessionScope, if_neg hne, if_neg h0]
  cases c
  case closeSession =>
    cases hc
    cases hh
    refine ⟨fun hb => ?_, fun _ _ hclose => absurd rfl hclose⟩
    rw [exec, execCloseSession, takeRequest_next hn, State.closeSession, if_neg hne, checkSession_popRequest, hb]
    exact taken_answered hn _
  case keepalive =>
    cases hc
    cases hh
    refine ⟨fun hb => ?_, fun i hl _ _ => ?_⟩
    · rw [exec, execKeepalive, takeRequest_next hn, State.keepalive, if_neg hne, checkSession_popRequest, hb]
      exact taken_answered hn _
    · rw [exec, execKeepalive, takeRequest_next hn, State.keepalive, if_neg hne, checkSession_popRequest, hl]
      exact taken_answered hn _
  case acquire tag h domain mode limit name =>
    cases hc
    cases hh
    simp only [Instr.inRange, Bool.and_eq_true, decide_eq_true_eq] at hrange
    obtain ⟨k, hk⟩ := key_of_inRange name hrange.1
    obtain ⟨m, hm⟩ := mode_of_inRange hrange.2
    refine ⟨fun hb => ?_, fun i hl _ _ => ?_⟩
    · rw [exec, execAcquire, takeRequest_next hn, State.acquire, if_neg hne, hm, hk]
      dsimp only
      rw [checkSession_popRequest, hb]
      exact taken_answered hn _
    · rw [exec, execAcquire, takeRequest_next hn, State.acquire, if_neg hne, hm, hk]
      dsimp only
      rw [checkSession_popRequest, hl]
      exact taken_answered hn _
  case cancel tag h domain name =>
    cases hc
    cases hh
    obtain ⟨k, hk⟩ := key_of_inRange name (of_decide_eq_true hrange)
    refine ⟨fun hb => ?_, fun i hl _ _ => ?_⟩
    · rw [exec, execCancel, takeRequest_next hn, State.cancel, if_neg hne, hk]
      dsimp only
      rw [checkSession_popRequest, hb]
      exact taken_answered hn _
    · rw [exec, execCancel, takeRequest_next hn, State.cancel, if_neg hne, hk]
      dsimp only
      rw [checkSession_popRequest, hl]
      exact taken_answered hn _
  case checkFence tag session domain name serial =>
    cases hc
    obtain ⟨hno, rfl⟩ : session ≠ noSession ∧ session = h := by simpa [Instr.sessionArgument] using hh
    obtain ⟨k, hk⟩ := key_of_inRange name (of_decide_eq_true hrange)
    refine ⟨fun hb => ?_, fun i hl _ _ => ?_⟩
    · rw [exec, execCheckFence, takeRequest_next hn, State.checkFence, if_neg hne, hk]
      dsimp only
      rw [if_neg hno, checkSession_popRequest, hb]
      exact taken_answered hn _
    · rw [exec, execCheckFence, takeRequest_next hn, State.checkFence, if_neg hne, hk]
      dsimp only
      rw [if_neg hno, checkSession_popRequest, hl]
      exact taken_answered hn _
  case openSession => cases hh
  case convert => cases hh
  case release => cases hh
  all_goals cases hclient

theorem management_session_refused (hc : c.requestChannel = some 0) (hn : s.nextRequest 0 = some c)
    (hmgmt : c.isManagementRequest = true) (hh : c.sessionArgument = some h) : SessionRefused s c 0 h := by
  rw [SessionRefused, sessionScope, if_pos (by rfl), if_pos rfl]
  have h00 : ¬((0 : Fin 16) : Nat) ≠ 0 := fun h => h rfl
  cases c
  case evictSession =>
    cases hc
    cases hh
    refine ⟨fun hb => ?_, fun i hl _ _ => ?_⟩
    · rw [exec, execEvictSession, takeRequest_next hn, State.evictSession, if_neg h00, checkSession_popRequest, hb]
      exact taken_answered hn _
    · rw [exec, execEvictSession, takeRequest_next hn, State.evictSession, if_neg h00, checkSession_popRequest, hl]
      exact taken_answered hn _
  case inspectSession =>
    cases hc
    cases hh
    refine ⟨fun hb => ?_, fun _ _ _ hinspect => absurd rfl hinspect⟩
    rw [exec, execInspectSession, takeRequest_next hn, State.inspectSession, if_neg h00, checkSession_popRequest, hb]
    exact taken_answered hn _
  case setupChannel => cases hh
  case teardownChannel => cases hh
  case restartChannel => cases hh
  case setAccess => cases hh
  case setLimits => cases hh
  case setTick => cases hh
  case discardResource => cases hh
  case inspectResource => cases hh
  case inspectDevice => cases hh
  all_goals cases hmgmt

theorem claim_refused {x : ClaimHandle} (hc : c.requestChannel = some ch) (hn : s.nextRequest ch = some c) (h0 : ch ≠ 0)
    (hclient : c.isClientRequest = true) (hrange : c.inRange = true) (hh : c.claimArgument = some x)
    (hk : ¬s.knowsClaim ch x) : exec c s = .next (s.answered ch ⟨c.replyKind, c.requestTag, .badHandle, .header⟩) := by
  have hne : (ch : Nat) ≠ 0 := fun h => h0 (Fin.ext h)
  have hnone := checkClaim_unknown hk
  cases c
  case convert tag x mode p i limit value =>
    cases hc
    cases hh
    simp only [Instr.inRange, Bool.and_eq_true, decide_eq_true_eq] at hrange
    obtain ⟨m, hm⟩ := mode_of_inRange hrange.1
    rw [exec, execConvert, takeRequest_next hn, State.convert, if_neg hne, hm]
    dsimp only
    rw [if_neg (by rw [(Bool.not_eq_true' _).mp hrange.2]; exact Bool.false_ne_true), checkClaim_popRequest, hnone]
    exact taken_answered hn _
  case release tag x p i value =>
    cases hc
    cases hh
    rw [exec, execRelease, takeRequest_next hn, State.release, if_neg hne,
      if_neg (by rw [(Bool.not_eq_true' _).mp hrange]; exact Bool.false_ne_true), checkClaim_popRequest, hnone]
    exact taken_answered hn _
  case openSession => cases hh
  case closeSession => cases hh
  case keepalive => cases hh
  case acquire => cases hh
  case cancel => cases hh
  case checkFence => cases hh
  all_goals cases hclient

theorem claimArgument_of_management (hmgmt : c.isManagementRequest = true) : c.claimArgument = none := by
  cases c <;> first | rfl | cases hmgmt

end

/-- Settles O23: every handler looks its handle up before it does anything else. -/
theorem badHandleRefused : Obligations.BadHandleRefused := by
  intro s c ch hc hn hkind hrange
  have hsession (h : SessionHandle) (hh : c.sessionArgument = some h) : SessionRefused s c ch h := by
    rcases hkind with ⟨h0, hclient⟩ | ⟨rfl, hmgmt⟩
    · exact client_session_refused hc hn h0 hclient hrange hh
    · exact management_session_refused hc hn hmgmt hh
  refine ⟨fun h hh => ⟨fun hk => (hsession h hh).1 (checkSession_unknown hk), fun hk ⟨l, hl⟩ => ?_⟩, fun x hh hk => ?_⟩
  · exact (hsession h hh).2 _ (checkSession_known_lapsed hk hl)
  · rcases hkind with ⟨h0, hclient⟩ | ⟨rfl, hmgmt⟩
    · exact claim_refused hc hn h0 hclient hrange hh hk
    · rw [claimArgument_of_management hmgmt] at hh
      cases hh

end Sys2Proof.Machine
end

section
/-! PROOFS. What the turns of the grant pass are and what they reach (R35, R36), and what the pass leaves (R34, R40). -/

namespace Sys2Proof.Machine

section
variable {s t : State} {w c k : Nat} {b : Claim} {m x : Mode} {wait : Wait} {rest : List Nat}

/-! ### The turns, case by case (R35, R36, R38) -/

/-- The head of the convert queue granted (R35). -/
def State.convertGranted (s : State) (w c : Nat) (m : Mode) (tag : ReqTag) : State :=
  ((s.clearNoticed c).modEntry w fun e => { e with converts := e.converts.filter (· != c) }).grant .convert tag c w m

/-- The head of the wait queue granted (R36). -/
def State.waitGranted (s : State) (w c : Nat) (m : Mode) (tag : ReqTag) : State :=
  (s.modEntry w fun e => { e with waits := e.waits.filter (· != c), holders := e.holders ++ [c] }).grant .acquire tag c w m

theorem convertTurn_cases (h : s.convertTurn w = some t) :
    ∃ c rest b x m wait, (s.entry w).converts = c :: rest ∧ s.claimAt c = some b ∧ b.state = .converting x m wait ∧
      (t = s.endWait c .serialExhausted ∨ t = s.convertGranted w c m wait.tag) := by
  unfold State.convertTurn at h
  split at h
  · cases h
  · rename_i c rest hq
    split at h
    · rename_i b hb
      split at h
      · rename_i x m wait hst
        refine ⟨c, rest, b, x, m, wait, hq, hb, hst, ?_⟩
        split_ifs at h <;> cases h
        exacts [.inl rfl, .inr rfl]
      · cases h
      · cases h
    · cases h

theorem waitTurn_cases (h : s.waitTurn w = some t) :
    ∃ c rest b m wait, (s.entry w).converts = [] ∧ (s.entry w).waits = c :: rest ∧ s.claimAt c = some b ∧
      b.state = .waiting m wait ∧ (t = s.endWait c .serialExhausted ∨ t = s.waitGranted w c m wait.tag) := by
  unfold State.waitTurn at h
  split at h
  · cases h
  rename_i hnone
  split at h
  · cases h
  · rename_i c rest hq
    split at h
    · rename_i b hb
      split at h
      · rename_i m wait hst
        refine ⟨c, rest, b, m, wait, not_not.mp hnone, hq, hb, hst, ?_⟩
        split_ifs at h <;> cases h
        exacts [.inl rfl, .inr rfl]
      · cases h
      · cases h
    · cases h

/-- A convert head that takes no turn is blocked by another holder (R35, R38). -/
theorem blocked_of_convertTurn_none (h : s.convertTurn w = none) (hq : (s.entry w).converts = c :: rest)
    (hb : s.claimAt c = some b) (hst : b.state = .converting x m wait) :
    (m = .exclusive → s.nextSerial ≠ none) ∧
      ∃ d ∈ (s.entry w).holders, d ≠ c ∧ ∃ y, s.heldMode d = some y ∧ y.compatible m = false := by
  rw [State.convertTurn, hq] at h
  dsimp only at h
  rw [hb] at h
  dsimp only at h
  rw [hst] at h
  dsimp only at h
  split_ifs at h with hser hadm
  refine ⟨fun hm hn => hser ⟨hm, hn⟩, ?_⟩
  rw [admits_iff] at hadm
  push Not at hadm
  obtain ⟨d, hd, hne, y, hy, hcomp⟩ := hadm
  exact ⟨d, hd, fun hdc => hne (congrArg some hdc), y, hy, Bool.eq_false_of_not_eq_true hcomp⟩

/-- With no conversion pending a wait head that takes no turn is blocked by a holder (R36, R38). -/
theorem blocked_of_waitTurn_none (h : s.waitTurn w = none) (hc : (s.entry w).converts = [])
    (hq : (s.entry w).waits = c :: rest) (hb : s.claimAt c = some b) (hst : b.state = .waiting m wait) :
    (m = .exclusive → s.nextSerial ≠ none) ∧
      ∃ d ∈ (s.entry w).holders, ∃ y, s.heldMode d = some y ∧ y.compatible m = false := by
  rw [State.waitTurn, if_neg (not_not.mpr hc), hq] at h
  dsimp only at h
  rw [hb] at h
  dsimp only at h
  rw [hst] at h
  dsimp only at h
  split_ifs at h with hser hadm
  refine ⟨fun hm hn => hser ⟨hm, hn⟩, ?_⟩
  rw [admits_iff] at hadm
  push Not at hadm
  obtain ⟨d, hd, -, y, hy, hcomp⟩ := hadm
  exact ⟨d, hd, y, hy, Bool.eq_false_of_not_eq_true hcomp⟩

/-! ### What a turn reaches -/

theorem claimAt_handClaim (s : State) (c k : Nat) (r : Reply) : (s.handClaim c r).claimAt k = s.claimAt k := by
  rw [State.handClaim_frame]
  rfl

theorem way_handClaim (s : State) (c k : Nat) (r : Reply) : (s.handClaim c r).way k = s.way k := by
  rw [State.handClaim_frame]
  rfl

theorem claimAt_answer (s : State) (c k : Nat) (st : Status) (full : Bool) : (s.answer c st full).claimAt k = s.claimAt k := by
  rw [State.answer_frame]
  rfl

theorem way_answer (s : State) (c k : Nat) (st : Status) (full : Bool) : (s.answer c st full).way k = s.way k := by
  rw [State.answer_frame]
  rfl

theorem claimAt_endWait_ne (st : Status) (hk : k ≠ c) : (s.endWait c st).claimAt k = s.claimAt k := by
  unfold State.endWait
  split
  · split
    · rw [State.claimAt_freeClaim, if_neg hk, claimAt_answer]
    · rw [State.claimAt_endConversion, if_neg hk, claimAt_answer]
    · rfl
  · rfl

theorem claimAt_endWait_way (st : Status) {b' : Claim} (hb' : (s.endWait c st).claimAt c = some b') :
    (s.claimAt c).map (·.way) = some b'.way := by
  obtain ⟨b, hb, -, hw, -⟩ := core_origin (core_endWait s c st) hb'
  rw [hb, hw]
  rfl

/-- The end of a wait takes its claim off lists of its way, and changes no other way. -/
theorem way_endWait (st : Status) (k : Nat) : ∃ f : Entry → Entry, (s.endWait c st).way k = (s.way k).update f ∧
    (∀ e, ¬e.lists c → f e = e) ∧ ((s.claimAt c).map (·.way) ≠ some k → f = fun e => e) := by
  have hsame : ∃ f : Entry → Entry, s.way k = (s.way k).update f ∧
      (∀ e, ¬e.lists c → f e = e) ∧ ((s.claimAt c).map (·.way) ≠ some k → f = fun e => e) :=
    ⟨fun e => e, (Way.update_id _).symm, fun _ _ => rfl, fun _ => rfl⟩
  have hkeep (l : List Nat) (hl : c ∉ l) : l.filter (· != c) = l := filter_ne_of_not_mem hl
  unfold State.endWait
  split
  · rename_i b hb
    split
    · rw [State.way_freeClaim, claimAt_answer, way_answer]
      split_ifs with hk
      · refine ⟨_, rfl, fun e he => ?_, fun hn => ?_⟩
        · obtain ⟨h1, h2, h3⟩ : c ∉ e.holders ∧ c ∉ e.converts ∧ c ∉ e.waits := by simpa [Entry.lists] using he
          rw [Entry.without, hkeep _ h1, hkeep _ h2, hkeep _ h3]
        · obtain ⟨b', hb', hw⟩ := hk
          rw [hb', ← hw] at hn
          exact absurd rfl hn
      · exact hsame
    · rw [State.way_endConversion, claimAt_answer, way_answer]
      split_ifs with hk
      · refine ⟨_, rfl, fun e he => ?_, fun hn => ?_⟩
        · rw [hkeep _ fun h => he (.inr (.inl h))]
        · rw [hb] at hk hn
          simp only [Option.any_some, Bool.and_eq_true, beq_iff_eq] at hk
          rw [Option.map_some, hk.1] at hn
          exact absurd rfl hn
      · exact hsame
    · exact hsame
  · exact hsame

theorem claimAt_grant_ne {kind : Kind} {tag : ReqTag} (hk : k ≠ c) : (s.grant kind tag c w m).claimAt k = s.claimAt k := by
  rw [State.grant, claimAt_handClaim, State.claimAt_hold, if_neg hk]

theorem way_grant_ne {kind : Kind} {tag : ReqTag} (hk : k ≠ w) : (s.grant kind tag c w m).way k = s.way k := by
  rw [State.grant, way_handClaim, State.way_hold, if_neg hk]

theorem claimAt_clearNoticed_ne (hk : k ≠ c) : (s.clearNoticed c).claimAt k = s.claimAt k := by
  rw [claimAt_eq_of_claims (s.claims_clearNoticed c), State.claimAt_modClaim, if_neg hk]

/-- What a turn at way `w` for claim `c`, which waits, reaches: no other claim, of the ways other than `w` only that of the claim, and
there only lists that hold it. -/
structure TurnAt (s t : State) (w c : Nat) : Prop where
  waits : s.isWaiting c = true
  claims : ∀ k, k ≠ c → t.claimAt k = s.claimAt k
  stays : ∀ b, t.claimAt c = some b → (s.claimAt c).map (·.way) = some b.way
  ways : ∀ k, k ≠ w → ∃ f : Entry → Entry, t.way k = (s.way k).update f ∧ (∀ e, ¬e.lists c → f e = e) ∧
    ((s.claimAt c).map (·.way) ≠ some k → f = fun e => e)

theorem TurnAt.ended (h : s.isWaiting c = true) (st : Status) : TurnAt s (s.endWait c st) w c :=
  ⟨h, fun _ => claimAt_endWait_ne st, fun _ => claimAt_endWait_way st, fun k _ => way_endWait st k⟩

theorem TurnAt.convertTurn (h : s.convertTurn w = some t) : ∃ c rest, (s.entry w).converts = c :: rest ∧ TurnAt s t w c := by
  obtain ⟨c, rest, b, x, m, wait, hq, hb, hst, ht⟩ := convertTurn_cases h
  have hwaits : s.isWaiting c = true := by simp [State.isWaiting, hb, hst, ClaimState.wait]
  refine ⟨c, rest, hq, ?_⟩
  rcases ht with rfl | rfl
  · exact .ended hwaits _
  · refine ⟨hwaits, fun k hk => ?_, fun b' hb' => ?_, fun k hk => ⟨fun e => e, ?_, fun _ _ => rfl, fun _ => rfl⟩⟩
    · rw [State.convertGranted, claimAt_grant_ne hk, State.claimAt_modEntry, claimAt_clearNoticed_ne hk]
    · obtain ⟨b₀, hb₀, -, hw, -⟩ := core_origin (core_convertTurn h) hb'
      rw [hb₀, hw]
      rfl
    · rw [State.convertGranted, way_grant_ne hk, State.way_modEntry', if_neg hk, State.way_clearNoticed, Way.update_id]

theorem TurnAt.waitTurn (h : s.waitTurn w = some t) :
    ∃ c rest, (s.entry w).converts = [] ∧ (s.entry w).waits = c :: rest ∧ TurnAt s t w c := by
  obtain ⟨c, rest, b, m, wait, hc, hq, hb, hst, ht⟩ := waitTurn_cases h
  have hwaits : s.isWaiting c = true := by simp [State.isWaiting, hb, hst, ClaimState.wait]
  refine ⟨c, rest, hc, hq, ?_⟩
  rcases ht with rfl | rfl
  · exact .ended hwaits _
  · refine ⟨hwaits, fun k hk => ?_, fun b' hb' => ?_, fun k hk => ⟨fun e => e, ?_, fun _ _ => rfl, fun _ => rfl⟩⟩
    · rw [State.waitGranted, claimAt_grant_ne hk, State.claimAt_modEntry]
    · obtain ⟨b₀, hb₀, -, hw, -⟩ := core_origin (core_waitTurn h) hb'
      rw [hb₀, hw]
      rfl
    · rw [State.waitGranted, way_grant_ne hk, State.way_modEntry', if_neg hk, Way.update_id]

/-! ### The queues shrink (R35, R36) -/

theorem LeasesKept.after (hs : LeasesKept s) (h : Core s t) : LeasesKept t := by
  induction h with
  | refl => exact hs
  | tail _ h ih => exact ih.core h

theorem entry_update_of_way {f : Entry → Entry} {e : Entry} (hs : s.way w = .active e) (h : t.way w = (s.way w).update f) :
    t.entry w = f e := by
  rw [hs] at h
  exact entry_of_active h

/-- The way of a turn is ACTIVE, and its claim stands there. -/
theorem LeasesKept.turn (hs : LeasesKept s) (h : (s.entry w).lists c) (hb : s.claimAt c = some b) :
    b.way = w ∧ s.way w = .active (s.entry w) := by
  obtain ⟨b', hb', hw⟩ := hs.at_way h
  rw [hb] at hb'
  exact ⟨Option.some.inj hb' ▸ hw, hs.active_of_lists h⟩

theorem converts_convertTurn (hs : LeasesKept s) (h : s.convertTurn w = some t) :
    (t.entry w).converts.length < (s.entry w).converts.length := by
  obtain ⟨c, rest, b, x, m, wait, hq, hb, hst, ht⟩ := convertTurn_cases h
  obtain ⟨hbw, hact⟩ := hs.turn (w := w) (c := c) (.inr (.inl (by simp [hq]))) hb
  have hfilter : (t.entry w).converts = (s.entry w).converts.filter (· != c) := by
    rcases ht with rfl | rfl
    · have hway : (s.endWait c .serialExhausted).way w =
          (s.way w).update fun e => { e with converts := e.converts.filter (· != c) } := by
        rw [State.endWait, hb]
        dsimp only
        rw [hst]
        dsimp only
        rw [State.way_endConversion, claimAt_answer, way_answer, hb, if_pos (by simp [hbw, hst, ClaimState.isConverting])]
      rw [entry_update_of_way hact hway]
    · have hway : (s.convertGranted w c m wait.tag).way w = (s.way w).update fun e =>
          { e with
            converts := e.converts.filter (· != c)
            serial := if m = .exclusive then s.nextSerial.getD e.serial else e.serial } := by
        rw [State.convertGranted, State.grant, way_handClaim, State.way_hold, if_pos rfl, State.way_modEntry', if_pos rfl,
          State.way_clearNoticed, hact, State.modEntry_nextSerial, State.clearNoticed_nextSerial]
        rfl
      rw [entry_update_of_way hact hway]
  rw [hfilter, hq, List.filter_cons_of_neg (by simp)]
  exact Nat.lt_succ_of_le (List.length_filter_le ..)

theorem waits_waitTurn (hs : LeasesKept s) (h : s.waitTurn w = some t) :
    (t.entry w).converts = [] ∧ (t.entry w).waits.length < (s.entry w).waits.length := by
  obtain ⟨c, rest, b, m, wait, hc, hq, hb, hst, ht⟩ := waitTurn_cases h
  obtain ⟨hbw, hact⟩ := hs.turn (w := w) (c := c) (.inr (.inr (by simp [hq]))) hb
  have hfilter : (t.entry w).converts = [] ∧ (t.entry w).waits = (s.entry w).waits.filter (· != c) := by
    rcases ht with rfl | rfl
    · have hway : (s.endWait c .serialExhausted).way w = (s.way w).update (Entry.without c) := by
        rw [State.endWait, hb]
        dsimp only
        rw [hst]
        dsimp only
        rw [State.way_freeClaim, claimAt_answer, way_answer, if_pos ⟨b, hb, hbw⟩]
      rw [entry_update_of_way hact hway]
      simp [Entry.without, hc]
    · have hway : (s.waitGranted w c m wait.tag).way w = (s.way w).update fun e =>
          { e with
            waits := e.waits.filter (· != c)
            holders := e.holders ++ [c]
            serial := if m = .exclusive then s.nextSerial.getD e.serial else e.serial } := by
        rw [State.waitGranted, State.grant, way_handClaim, State.way_hold, if_pos rfl, State.way_modEntry', if_pos rfl, hact,
          State.modEntry_nextSerial]
        rfl
      rw [entry_update_of_way hact hway]
      exact ⟨hc, rfl⟩
  rw [hfilter.2, hq, List.filter_cons_of_neg (by simp)]
  exact ⟨hfilter.1, Nat.lt_succ_of_le (List.length_filter_le ..)⟩

/-! ### Turns repeated -/

theorem repeatTurn_keeps {turn : State → Option State} {P : State → Prop} (hP : ∀ s t, P s → turn s = some t → P t)
    (hs : P s) (fuel : Nat) : P (repeatTurn turn fuel s) := by
  induction fuel generalizing s with
  | zero => exact hs
  | succ n ih =>
    unfold repeatTurn
    split
    exacts [ih (hP _ _ hs ‹_›), hs]

/-- Turns that make a queue shorter leave no turn once there have been as many as the queue is long. -/
theorem repeatTurn_done {turn : State → Option State} {P : State → Prop} {size : State → Nat}
    (hP : ∀ s t, P s → turn s = some t → P t ∧ size t < size s) {fuel : Nat} (hs : P s) (hfuel : size s ≤ fuel) :
    turn (repeatTurn turn fuel s) = none := by
  induction fuel generalizing s with
  | zero =>
    rcases ht : turn s with _ | t
    · exact ht
    · have := (hP _ _ hs ht).2
      omega
  | succ n ih =>
    unfold repeatTurn
    split
    · rename_i t ht
      obtain ⟨hpt, hlt⟩ := hP _ _ hs ht
      exact ih hpt (by omega)
    · assumption

/-- The state behind the turns of the convert queue. -/
def State.converted (s : State) (w : Nat) : State := repeatTurn (·.convertTurn w) (s.entry w).converts.length s

/-- The state behind the turns of both queues, before the contention step. -/
def State.turned (s : State) (w : Nat) : State :=
  repeatTurn (·.waitTurn w) ((s.converted w).entry w).waits.length (s.converted w)

theorem finish_eq (s : State) (w : Nat) : s.finish w = ((s.turned w).tellHolders w).settle w := rfl

/-- What every turn at way `w` keeps, the turns behind `s` kept. -/
theorem turned_keeps {P : State → Prop} (hconvert : ∀ s t, P s → s.convertTurn w = some t → P t)
    (hwait : ∀ s t, P s → s.waitTurn w = some t → P t) (hs : P s) : P (s.turned w) :=
  repeatTurn_keeps hwait (repeatTurn_keeps hconvert hs _) _

theorem convertTurn_of_empty (h : (s.entry w).converts = []) : s.convertTurn w = none := by
  rw [State.convertTurn, h]

/-- Behind the turns no queue has one left (R40). -/
theorem turned_done (hs : LeasesKept s) : (s.turned w).convertTurn w = none ∧ (s.turned w).waitTurn w = none := by
  have hconverted : (s.converted w).convertTurn w = none :=
    repeatTurn_done (P := LeasesKept) (size := fun s => (s.entry w).converts.length)
      (fun _ _ h ht => ⟨h.after (core_convertTurn ht), converts_convertTurn h ht⟩) hs le_rfl
  have hleases : LeasesKept (s.converted w) :=
    repeatTurn_keeps (P := LeasesKept) (fun _ _ h ht => h.after (core_convertTurn ht)) hs _
  constructor
  · refine (repeatTurn_keeps (P := fun u => u.convertTurn w = none ∧ LeasesKept u) (fun u t h ht => ?_) ⟨hconverted, hleases⟩ _).1
    exact ⟨convertTurn_of_empty (waits_waitTurn h.2 ht).1, h.2.after (core_waitTurn ht)⟩
  · exact repeatTurn_done (P := LeasesKept) (size := fun s => (s.entry w).waits.length)
      (fun _ _ h ht => ⟨h.after (core_waitTurn ht), (waits_waitTurn h ht).2⟩) hleases le_rfl

/-! ### The contention step (R41) -/

/-- What the telling of holders leaves of the ways, the counter and the claims: noticed flags may change. -/
structure Told (s t : State) : Prop where
  ways : ∀ w, t.way w = s.way w
  serial : t.nextSerial = s.nextSerial
  states : ∀ c, (t.claimAt c).map (·.state) = (s.claimAt c).map (·.state)

theorem Told.refl (s : State) : Told s s := ⟨fun _ => rfl, rfl, fun _ => rfl⟩

theorem Told.trans {u : State} (h : Told s t) (h' : Told t u) : Told s u :=
  ⟨fun w => (h'.ways w).trans (h.ways w), h'.serial.trans h.serial, fun c => (h'.states c).trans (h.states c)⟩

theorem Told.heldMode (h : Told s t) (c : Nat) : t.heldMode c = s.heldMode c := by
  have := congrArg (Option.bind · ClaimState.heldMode) (h.states c)
  simpa [State.heldMode, Option.bind_map] using this

/-- A holder told keeps all but its noticed flag, or nothing happens (R41). -/
theorem tell_cases (s : State) (w head : Nat) (q : QueueKind) (c : Nat) :
    s.tell w head q c = s ∨
      ∃ ch n, s.tell w head q c = (s.raise ch n).modClaim c fun b => { b with noticed := true } := by
  unfold State.tell
  split
  · split_ifs
    · split
      exacts [.inr ⟨_, _, rfl⟩, .inl rfl]
    · exact .inl rfl
  · exact .inl rfl

theorem told_tell (s : State) (w head : Nat) (q : QueueKind) (c : Nat) :
    Told s (s.tell w head q c) ∧ ∀ k, k ≠ c → (s.tell w head q c).claimAt k = s.claimAt k := by
  rcases tell_cases s w head q c with h | ⟨ch, n, h⟩ <;> rw [h]
  · exact ⟨.refl s, fun _ _ => rfl⟩
  · refine ⟨⟨by simp, by simp, fun k => ?_⟩, fun k hk => ?_⟩
    · rw [State.claimAt_modClaim, State.claimAt_raise, State.claimAt_raise]
      split_ifs with hk
      · rw [hk, Option.map_map]
        rfl
      · rfl
    · rw [State.claimAt_modClaim, if_neg hk, State.claimAt_raise]

theorem told_foldl (s : State) (w head : Nat) (q : QueueKind) (l : List Nat) :
    Told s (l.foldl (fun s c => s.tell w head q c) s) ∧
      ∀ k, k ∉ l → (l.foldl (fun s c => s.tell w head q c) s).claimAt k = s.claimAt k := by
  induction l generalizing s with
  | nil => exact ⟨.refl s, fun _ _ => rfl⟩
  | cons c l ih =>
    obtain ⟨h, hk⟩ := told_tell s w head q c
    obtain ⟨h', hk'⟩ := ih (s.tell w head q c)
    refine ⟨h.trans h', fun k hn => ?_⟩
    obtain ⟨hne, hl⟩ := not_or.mp (mt List.mem_cons.mpr hn)
    exact (hk' k hl).trans (hk k hne)

theorem told_tellHolders (s : State) (w : Nat) :
    Told s (s.tellHolders w) ∧ ∀ k, k ∉ (s.entry w).holders → (s.tellHolders w).claimAt k = s.claimAt k := by
  unfold State.tellHolders
  split
  · exact told_foldl ..
  · exact ⟨.refl s, fun _ _ => rfl⟩

/-! ### The decision about the way (R14, R15) -/

theorem entry_settle (s : State) (w : Nat) :
    ((s.settle w).entry w).converts = (s.entry w).converts ∧ ((s.settle w).entry w).waits = (s.entry w).waits ∧
      ((s.settle w).entry w).holders = (s.entry w).holders := by
  rw [State.entry, State.way_settle, if_pos rfl, State.entry]
  rcases s.way w with _ | e | e
  · exact ⟨rfl, rfl, rfl⟩
  · dsimp only
    split_ifs with hempty hv
    · obtain ⟨hh, hc, hq⟩ := hempty
      exact ⟨hc.symm, hq.symm, hh.symm⟩
    · exact ⟨rfl, rfl, rfl⟩
    · exact ⟨rfl, rfl, rfl⟩
  · exact ⟨rfl, rfl, rfl⟩

theorem listed_of_settle {e : Entry} (h : (s.settle w).way w = .active e) : e.holders ≠ [] ∨ e.converts ≠ [] ∨ e.waits ≠ [] := by
  rw [State.way_settle, if_pos rfl] at h
  rcases hw : s.way w with _ | e' | e' <;> rw [hw] at h
  · cases h
  · dsimp only at h
    split_ifs at h with hempty
    cases h
    by_contra hn
    push Not at hn
    exact hempty hn
  · cases h

end

/-! ### The end of an event -/

/-- What the turns at way `w` leave as it was: the other ways, and the claims that stood elsewhere. -/
structure Within (w : Nat) (s t : State) : Prop where
  core : Core s t
  ways : ∀ k, k ≠ w → t.way k = s.way k
  claims : ∀ c, (s.claimAt c).map (·.way) ≠ some w → t.claimAt c = s.claimAt c

theorem Within.refl (w : Nat) (s : State) : Within w s s := ⟨.refl, fun _ _ => rfl, fun _ _ => rfl⟩

section
variable {s t u : State} {w c : Nat}

/-- A claim in a list of way `w` stood at `w` from the start. -/
theorem Within.stood (hs : LeasesKept s) (h : Within w s t) (hc : (t.entry w).lists c) :
    (t.claimAt c).map (·.way) = some w ∧ (s.claimAt c).map (·.way) = some w := by
  obtain ⟨b, hb, hw⟩ := (hs.after h.core).at_way hc
  obtain ⟨b₀, hb₀, -, hw₀, -⟩ := core_origin h.core hb
  exact ⟨by rw [hb, ← hw]; rfl, by rw [hb₀, ← hw, hw₀]; rfl⟩

theorem Within.turn (hs : LeasesKept s) (h : Within w s t) (hc : (t.entry w).lists c) (hcore : Core t u)
    (ht : TurnAt t u w c) : Within w s u := by
  obtain ⟨hthere, hstood⟩ := h.stood hs hc
  refine ⟨h.core.trans hcore, fun k hk => ?_, fun k hk => ?_⟩
  · obtain ⟨f, hf, -, hid⟩ := ht.ways k hk
    rw [hf, hid (by rw [hthere]; simpa using Ne.symm hk), Way.update_id, h.ways k hk]
  · rw [ht.claims k fun hkc => hk (hkc ▸ hstood), h.claims k hk]

theorem within_turned (hs : LeasesKept s) (w : Nat) : Within w s (s.turned w) := by
  refine turned_keeps (P := Within w s) (fun t u h ht => ?_) (fun t u h ht => ?_) (.refl w s)
  · obtain ⟨c, rest, hq, hturn⟩ := TurnAt.convertTurn ht
    exact h.turn hs (.inr (.inl (by simp [hq]))) (core_convertTurn ht) hturn
  · obtain ⟨c, rest, -, hq, hturn⟩ := TurnAt.waitTurn ht
    exact h.turn hs (.inr (.inr (by simp [hq]))) (core_waitTurn ht) hturn

end

/-- Settles O28: behind the turns no head has one, which the contention step and the decision about the way leave so. -/
theorem passSettles : Obligations.PassSettles := by
  intro s w hs _ t
  obtain ⟨hconvert, hwait⟩ := turned_done (w := w) hs
  obtain ⟨htold, huntold⟩ := told_tellHolders (s.turned w) w
  have hwithin := within_turned hs w
  obtain ⟨hc, hq, hh⟩ : (t.entry w).converts = (((s.turned w).tellHolders w).entry w).converts ∧
      (t.entry w).waits = (((s.turned w).tellHolders w).entry w).waits ∧
      (t.entry w).holders = (((s.turned w).tellHolders w).entry w).holders := entry_settle _ w
  have hentry : ((s.turned w).tellHolders w).entry w = (s.turned w).entry w := by rw [State.entry, htold.ways, State.entry]
  have hserial : t.nextSerial = (s.turned w).nextSerial := by
    rw [← htold.serial]
    exact State.settle_nextSerial ..
  have hclaim (k : Nat) : t.claimAt k = ((s.turned w).tellHolders w).claimAt k := State.claimAt_settle ..
  have hheld (k : Nat) : t.heldMode k = (s.turned w).heldMode k := by
    rw [State.heldMode, hclaim, ← htold.heldMode, State.heldMode]
  have hstate {k : Nat} {b : Claim} (hb : t.claimAt k = some b) :
      ∃ b', (s.turned w).claimAt k = some b' ∧ b'.state = b.state := by
    have := htold.states k
    rw [← hclaim, hb] at this
    obtain ⟨b', hb', hst⟩ := Option.map_eq_some_iff.mp this.symm
    exact ⟨b', hb', hst⟩
  rw [hentry] at hc hq hh
  refine ⟨fun c rest b x m wait hcq hb hst => ?_, fun c rest b m wait hcq hwq hb hst => ?_, fun e he => listed_of_settle he,
    fun k hk => ?_, fun c hcw => ?_, core_frame (core_finish s w)⟩
  · obtain ⟨b', hb', hst'⟩ := hstate hb
    rw [hserial, hh]
    simp only [hheld]
    exact blocked_of_convertTurn_none hconvert (hc.symm.trans hcq) hb' (hst'.trans hst)
  · obtain ⟨b', hb', hst'⟩ := hstate hb
    rw [hserial, hh]
    simp only [hheld]
    exact blocked_of_waitTurn_none hwait (hc.symm.trans hcq) (hq.symm.trans hwq) hb' (hst'.trans hst)
  · show (((s.turned w).tellHolders w).settle w).way k = _
    rw [State.way_settle, if_neg hk, htold.ways, hwithin.ways k hk]
  · rw [hclaim, huntold, hwithin.claims c hcw]
    exact fun hmem => hcw (hwithin.stood hs (.inl hmem)).2

end Sys2Proof.Machine
end

section
/-! PROOFS. CLOSE_SESSION (R86, R87): a sole holder of X withdrawn, a session's one claim withdrawn, and the records freed. -/

namespace Sys2Proof.Machine

section
variable {s t : State} {w c k : Nat} {b : Claim} {o : OpenSession} {e : Entry}

/-- A withdrawal that answers and keeps the value (R86). -/
theorem withdraw_some (hb : s.claimAt c = some b) (st : Status) :
    s.withdraw c (some st) false = (s.answer c st false).freeClaim c := by
  unfold State.withdraw
  rw [hb]
  exact if_neg (by simp)

/-! ### A sole holder of X (R86, R114) -/

/-- Claim `c` holds X at way `w`, whose entry `e` lists it alone. -/
structure SoleHolder (s : State) (c w : Nat) (e : Entry) : Prop where
  active : s.way w = .active e
  holders : e.holders = [c]
  converts : e.converts = []
  waits : e.waits = []
  held : ∃ b, s.claimAt c = some b ∧ b.state = .held .exclusive ∧ b.way = w

theorem SoleHolder.lists_iff (h : SoleHolder s c w e) : e.lists k ↔ k = c := by
  simp [Entry.lists, h.holders, h.converts, h.waits]

/-- What keeps the entry and the claim's record keeps the sole holder. -/
theorem SoleHolder.of_eq (h : SoleHolder s c w e) (hw : t.way w = s.way w) (hc : t.claimAt c = s.claimAt c) :
    SoleHolder t c w e :=
  ⟨hw.trans h.active, h.holders, h.converts, h.waits, by rw [hc]; exact h.held⟩

theorem SoleHolder.not_waiting (h : SoleHolder s c w e) (hk : s.isWaiting k = true) : k ≠ c := by
  rintro rfl
  obtain ⟨b, hb, hst, -⟩ := h.held
  simp [State.isWaiting, hb, hst, ClaimState.wait] at hk

theorem SoleHolder.turn {w' : Nat} (h : SoleHolder s c w e) (hne : w' ≠ w) (ht : TurnAt s t w' k) : SoleHolder t c w e := by
  have hkc := h.not_waiting ht.waits
  obtain ⟨f, hf, hid, -⟩ := ht.ways w hne.symm
  refine h.of_eq ?_ (ht.claims c hkc.symm)
  rw [hf, h.active, Way.update, hid e fun hl => hkc (h.lists_iff.mp hl)]

theorem SoleHolder.told (h : SoleHolder s c w e) (hcore : Core s t) (ht : Told s t) : SoleHolder t c w e := by
  obtain ⟨b, hb, hst, hw⟩ := h.held
  have hstate := ht.states c
  rw [hb] at hstate
  obtain ⟨b', hb', hst'⟩ := Option.map_eq_some_iff.mp hstate
  obtain ⟨b₀, hb₀, -, hway, -⟩ := core_origin hcore hb'
  obtain rfl := Option.some.inj (hb₀.symm.trans hb)
  exact ⟨(ht.ways w).trans h.active, h.holders, h.converts, h.waits, b', hb', hst'.trans hst, hway.trans hw⟩

/-- The end of an event leaves a sole holder as it is (R40). -/
theorem SoleHolder.finish (h : SoleHolder s c w e) (w' : Nat) : SoleHolder (s.finish w') c w e := by
  by_cases hne : w' = w
  · rwa [hne, finish_of_holders h.active h.converts h.waits (by simp [h.holders])]
  · have hturned : SoleHolder (s.turned w') c w e := by
      refine turned_keeps (P := fun u => SoleHolder u c w e) (fun t u h ht => ?_) (fun t u h ht => ?_) h
      · obtain ⟨c, rest, -, hturn⟩ := TurnAt.convertTurn ht
        exact h.turn hne hturn
      · obtain ⟨c, rest, -, -, hturn⟩ := TurnAt.waitTurn ht
        exact h.turn hne hturn
    have htold := hturned.told (core_tellHolders ..) (told_tellHolders (s.turned w') w').1
    rw [finish_eq]
    refine htold.of_eq ?_ (State.claimAt_settle ..)
    rw [State.way_settle, if_neg (Ne.symm hne)]

theorem SoleHolder.withdrawPart (h : SoleHolder s c w e) (st : Status) (hk : k ≠ c) :
    SoleHolder (s.withdrawPart k (some st) false) c w e := by
  have hanswer : SoleHolder (s.answer k st false) c w e := h.of_eq (way_answer ..) (claimAt_answer ..)
  have hfree : SoleHolder ((s.answer k st false).freeClaim k) c w e := by
    have hwithout : e.without k = e := by
      rw [Entry.without, filter_ne_of_not_mem (by simp [h.holders, hk]), filter_ne_of_not_mem (by simp [h.converts]),
        filter_ne_of_not_mem (by simp [h.waits])]
    refine hanswer.of_eq ?_ (by rw [State.claimAt_freeClaim, if_neg hk.symm])
    rw [State.way_freeClaim, hanswer.active, Way.update, hwithout, ite_self]
  unfold State.withdrawPart
  split
  · rename_i b hb
    rw [withdraw_some hb]
    exact hfree.finish _
  · exact h

/-- The sole holder withdrawn with its value kept leaves its way DORMANT (R15, R86). -/
theorem SoleHolder.withdrawn (h : SoleHolder s c w e) (st : Status) {v : ValueWord} (hv : e.value = .valid v) :
    (s.withdrawPart c (some st) false).way w = .dormant { e with holders := [] } := by
  obtain ⟨b, hb, hst, rfl⟩ := h.held
  have hwithout : e.without c = { e with holders := [] } := by simp [Entry.without, h.holders, h.converts, h.waits]
  have hway : (s.freeClaim c).way b.way = .active { e with holders := [] } := by
    rw [State.way_freeClaim, if_pos ⟨b, hb, rfl⟩, h.active, Way.update, hwithout]
  rw [State.withdrawPart, hb]
  dsimp only
  rw [withdraw_some hb, answer_held hb hst, finish_of_empty hway h.converts h.waits rfl, if_neg (by simp [hv]),
    State.way_setDormant, State.way_setWay, if_pos rfl]

/-- A DORMANT way stays as it is under core moves. -/
theorem core_dormant (h : Core s t) (hw : s.way w = .dormant e) : t.way w = .dormant e := by
  induction h with
  | refl => exact hw
  | tail _ h ih =>
    rcases sameTable_core h with h | ⟨w', rfl⟩
    · exact (h.dormant w e).mpr ih
    · rw [State.way_settle]
      split_ifs with hk
      · subst hk
        rw [ih]
      · exact ih

/-- A close leaves the way of a sole X holder among its claims DORMANT, its value as it was (R86). -/
theorem SoleHolder.closed {l : List Nat} (h : SoleHolder s c w e) {v : ValueWord} (hv : e.value = .valid v) (st : Status)
    (hc : c ∈ l) : (l.foldl (fun s c => s.withdrawPart c (some st) false) s).way w = .dormant { e with holders := [] } := by
  induction l generalizing s with
  | nil => cases hc
  | cons k l ih =>
    by_cases hk : k = c
    · subst hk
      exact core_dormant (core_foldl _ (fun _ _ => core_withdrawPart ..) l _) (h.withdrawn st hv)
    · exact ih (h.withdrawPart st hk) ((List.mem_cons.mp hc).resolve_left (Ne.symm hk))

/-! ### A session's one claim (R86) -/

theorem withdraw_eq (hb : s.claimAt c = some b) (ho : (s.session b.session).state = .opened o) (hw : s.way b.way = .active e)
    (st : Status) : s.withdraw c (some st) false =
      (s.withFreedClaim b.session o c b.way e).handSome o.channel (b.deferred st) := by
  rw [withdraw_some hb, Claim.deferred]
  rcases hst : b.state with ⟨m, wait⟩ | m | ⟨x, m, wait⟩
  · rw [answer_waiting hb hst ho, freeClaim_eq (by simpa using hb) (by simpa using ho) (by simpa using hw), withFreedClaim_hand]
    rfl
  · rw [answer_held hb hst, freeClaim_eq hb ho hw]
    rfl
  · rw [answer_converting hb hst ho, freeClaim_eq (by simpa using hb) (by simpa using ho) (by simpa using hw),
      withFreedClaim_hand]
    rfl

/-! ### CLOSE_SESSION (R86, R87) -/

theorem sameFrame_trans {u : State} (h : s.sameFrame t) (h' : t.sameFrame u) : s.sameFrame u := by
  obtain ⟨a1, a2, a3, a4, a5, a6, a7⟩ := h
  obtain ⟨b1, b2, b3, b4, b5, b6, b7⟩ := h'
  exact ⟨fun n => (b1 n).trans (a1 n), b2.trans a2, b3.trans a3, b4.trans a4, b5.trans a5, b6.trans a6, b7.trans a7⟩

theorem sameFrame_setSession (s : State) (i : Nat) (r : SessionRec) : s.sameFrame (s.setSession i r) :=
  ⟨fun _ => rfl, rfl, rfl, rfl, rfl, rfl, rfl⟩

/-- The state behind the withdrawals of a close of session `i`, before its record is freed (R86). -/
def State.withdrawnFor (s : State) (o : OpenSession) : State :=
  o.claims.foldl (fun s c => s.withdrawPart c (some .withdrawn) false) s

theorem close_opened {i : Nat} (ho : (s.session i).state = .opened o) : s.close i = (s.withdrawnFor o).freeSession i := by
  rw [State.close, ho]
  rfl

theorem close_lapsed {i : Nat} {l : LapsedSession} (hl : (s.session i).state = .lapsed l) :
    s.close i = (s.dropNotices l.channel (Notice.lapseOf i)).freeSession i := by
  rw [State.close, hl]

theorem core_withdrawnFor (s : State) (o : OpenSession) : Core s (s.withdrawnFor o) := core_closing s o

theorem freeSession_eq {i : Nat} {tag : BitVec 7} (h : (s.session i).tag = tag) :
    s.freeSession i = s.setSession i (SessionRec.freed i tag) := by
  rw [State.freeSession, freed_eq, h]

/-- What the withdrawal of a session's one claim leaves (R86). -/
theorem withdrawnFor_alone {i : Nat} (ho : (s.session i).state = .opened o) (h : s.onlyClaim i o c b e) :
    s.withdrawnFor o = ((s.withFreedClaim i o c b.way e).handSome o.channel (b.deferred .withdrawn)).finish b.way := by
  obtain ⟨hl, hb, rfl, hw⟩ := h
  rw [State.withdrawnFor, hl, List.foldl_cons, List.foldl_nil, State.withdrawPart, hb]
  dsimp only
  rw [withdraw_eq hb ho hw]

section
variable {ch : Fin 16} {tag : ReqTag} {h : SessionHandle} {i : Nat}

/-- A CLOSE_SESSION whose handle passes closes the session it names (R75, R86, R87). -/
theorem exec_closeSession (hn : s.nextRequest ch = some (.closeSession ch tag h)) (hch : ch ≠ 0)
    (hc : s.checkSession (some ch) h = .opened i ∨ s.checkSession (some ch) h = .lapsed i) :
    exec (.closeSession ch tag h) s = .next (((s.popRequest ch).close i).hand ch ⟨.closeSession, tag, .ok, .header⟩) := by
  have h0 : (ch : Nat) ≠ 0 := fun h => hch (Fin.ext h)
  rw [exec, execCloseSession, takeRequest_next hn, State.closeSession, if_neg h0, checkSession_popRequest]
  rcases hc with hc | hc <;> rw [hc] <;> rfl

/-- The record of a LAPSED session freed by the request that closes it, or before that is taken. -/
theorem freed_lapsed_popRequest (s : State) (ch i : Nat) (p : Notice → Bool) (r : SessionRec) :
    ((s.popRequest ch).dropNotices ch p).setSession i r =
      ((s.setChan ch { s.chan ch with notices := (s.chan ch).notices.filter fun n => !p n }).setSession i r).popRequest ch := by
  simp [State.popRequest, State.dropNotices, State.setChan, State.setSession, State.chan]

end

end

/-- Settles O7: an OPEN session's claims are withdrawn by core moves before its record is freed, a LAPSED one has none. -/
theorem closeSessionFrees : Obligations.CloseSessionFrees := by
  refine ⟨fun s ch tag h i o hn hch hs => ?_, fun s ch tag i l hn hch hi hne hl hlch => ?_⟩
  · have ha := nextRequest_active hn
    obtain ⟨-, -, -, ho, -⟩ := id hs
    have hcore : Core (s.popRequest ch) ((s.popRequest ch).withdrawnFor o) := core_withdrawnFor ..
    have htag : (((s.popRequest ch).withdrawnFor o).session i).tag = (s.session i).tag := (core_untouched hcore i).1
    have hclose : (s.popRequest ch).close i =
        ((s.popRequest ch).withdrawnFor o).setSession i (SessionRec.freed i (s.session i).tag) := by
      rw [close_opened (s := s.popRequest ch) ho, freeSession_eq htag]
    have hframe : s.sameFrame (s.popRequest ch) := ⟨fun n => by rw [chan_popRequest]; split_ifs with hc <;> simp [hc], rfl, rfl, rfl,
      rfl, rfl, rfl⟩
    have hclosed := sameFrame_trans hframe (core_frame hcore)
    refine ⟨_, exec_closeSession hn hch (.inl (checkSession_opens hs (.inr rfl))), ?_, fun c hc => ?_, fun c hc => ?_,
      fun c w e v hsole => ?_, answeredLast_hand ?_, fun j hj => ?_, ?_, fun c b e honly => ?_⟩ <;> rw [hclose]
    · rw [State.session_hand, State.session_setSession, if_pos rfl]
    · rw [State.claimAt_hand, State.claimAt_setSession]
      exact fold_none _ _ _ _ c hc
    · rw [State.claimAt_hand, State.claimAt_setSession]
      exact core_none hcore c hc
    · obtain ⟨hc, hheld, hway, hh, hcv, hq, hv⟩ := hsole
      have hsole : SoleHolder (s.popRequest ch) c w e := ⟨hway, hh, hcv, hq, hheld⟩
      rw [State.way_hand, State.way_setSession]
      exact hsole.closed hv .withdrawn hc
    · rw [State.chan_setSession]
      exact (hclosed.1 ch).trans ha
    · rw [State.session_hand, State.session_setSession, if_neg hj]
      exact core_untouched hcore j
    · have hfreed := sameFrame_trans hclosed (sameFrame_setSession _ i (SessionRec.freed i (s.session i).tag))
      exact sameFrame_trans hfreed (core_frame (core_hand ..))
    · rw [withdrawnFor_alone (s := s.popRequest ch) ho honly]
      rfl
  · have hc := checkSession_lapses hi hne hl hlch (x := some (ch : Nat)) (.inr rfl)
    rw [exec_closeSession hn hch (.inr hc), close_lapsed (s := s.popRequest ch) hl, hlch,
      freeSession_eq (s := (s.popRequest ch).dropNotices ..) (tag := (s.session i).tag) rfl, freed_lapsed_popRequest, popRequest_hand]
    simpa using nextRequest_active hn

end Sys2Proof.Machine
end

section
/-! PROOFS. The reservations of a channel (R25, R129) while a command is under way: what is counted, and what the changes of its
shared parts do to the count. -/

namespace Sys2Proof.Machine

/-! ### Counts over tables -/

theorem Table.count_eq_total {α : Type} {d : α} (t : Table α d) (p : α → Bool) :
    t.count p = t.total fun _ v => if p v then 1 else 0 := by
  unfold Table.count Table.total
  induction t.cells with
  | nil => rfl
  | cons x l ih => by_cases hx : p x.2 = true <;> simp_all; omega

theorem Table.count_set {α : Type} {d : α} [DecidableEq α] (t : Table α d) (p : α → Bool) (hp : p d = false) (n : Nat) (v : α) :
    (t.set n v).count p + (if p (t.get n) then 1 else 0) = t.count p + if p v then 1 else 0 := by
  rw [t.count_eq_total, (t.set n v).count_eq_total]
  exact t.total_set _ (fun _ => by rw [hp]; rfl) n v

theorem Table.get_of_mem_cells {α : Type} {d : α} (t : Table α d) {x : Nat × α} (h : x ∈ t.cells) : t.get x.1 = x.2 :=
  cellsGet_of_mem t.canonical.1 h

theorem Table.count_eq_card {α : Type} {d : α} (t : Table α d) (p : α → Bool) :
    t.count p = (t.indices.toFinset.filter fun n => p (t.get n) = true).card := by
  have hcells : (t.indices.filter fun n => p (t.get n)) = (t.cells.filter fun x => p x.2).map (·.1) := by
    rw [Table.indices, List.filter_map]
    refine congrArg _ (List.filter_congr fun x hx => ?_)
    rw [Function.comp_apply, t.get_of_mem_cells hx]
  rw [← List.toFinset_filter, List.toFinset_card_of_nodup (t.indices_nodup.filter _), hcells, List.length_map]
  rfl

theorem Table.count_empty_of_get {α : Type} {d : α} (t : Table α d) (p : α → Bool) (h : ∀ n, p (t.get n) = false) :
    t.count p = 0 := by
  rw [t.count_eq_card, Finset.card_eq_zero, Finset.filter_eq_empty_iff]
  exact fun n _ => by simp [h n]

/-! ### Positions of a ring (R123) -/

theorem ringDiff_eq {a b n : Nat} (hn : 0 < n) : (ringDiff a b n : Int) = ((a : Int) - b) % n := by
  have hb : b % n ≤ n := (Nat.mod_lt b hn).le
  have hcast : ((a + (n - b % n) : Nat) : Int) = a - (b : Int) % n + n := by push_cast [hb]; ring
  rw [ringDiff, Int.natCast_mod, hcast, Int.add_emod_right, Int.sub_emod, Int.emod_emod, ← Int.sub_emod]

theorem ringDiff_succ (a b n : Nat) : ringDiff ((a + 1) % n) b n ≤ ringDiff a b n + 1 := by
  have h : ringDiff ((a + 1) % n) b n = (ringDiff a b n + 1) % n := by
    simp only [ringDiff]
    rw [Nat.mod_add_mod, Nat.mod_add_mod, Nat.add_right_comm]
  rw [h]
  exact Nat.mod_le _ _

/-- What is left between a new consumer index and the producer index (R134). -/
theorem ringDiff_consumed {a b c n : Nat} (hn : 0 < n) (h : ringDiff c b n ≤ ringDiff a b n) : ringDiff a c n ≤ ringDiff a b n := by
  have hlt : ringDiff a b n < n := Nat.mod_lt _ hn
  have hsub : (ringDiff a c n : Int) = ringDiff a b n - ringDiff c b n := by
    rw [ringDiff_eq hn, show (a : Int) - c = (a - b) - (c - b) by ring, Int.sub_emod, ← ringDiff_eq hn, ← ringDiff_eq hn]
    exact Int.emod_eq_of_lt (by omega) (by omega)
  omega

/-! ### What is counted -/

/-- What the reservations read off a channel record. -/
structure Dues where
  state : ChanState
  owed : Nat
  fetched : Nat
  written : Nat
  size : Nat

def Channel.dues (c : Channel) : Dues := ⟨c.state, c.owed, c.fetched, c.written, c.rplSize⟩

def State.dues (s : State) (n : Nat) : Dues := (s.chan n).dues

/-- A reply written into its reservation (R130). -/
def Dues.paid (d : Dues) : Dues := { d with owed := d.owed - 1, written := d.written + 1 }

/-- The channel that the deferred reply of claim `c` is due on, if it waits (R22, R53). -/
def State.dueOn (s : State) (c : Nat) : Option Nat :=
  (s.claimAt c).bind fun b => if b.state.wait.isSome then (s.session b.session).channel else none

/-- The claims with a deferred reply due on channel `n`. -/
def State.waiters (s : State) (n : Nat) : Finset Nat := s.claims.indices.toFinset.filter fun c => s.dueOn c = some n

/-- The pending teardown replies, which are due on channel 0 (R158). -/
def State.repliesDue (s : State) (n : Nat) : Nat := if n = 0 then s.teardownReplies.count (·.isSome) else 0

section
variable {s t u : State} {n ch c i w : Nat} {b : Claim} {l l' : List Nat} {r : Reply}

theorem dueOn_of_claimAt (hb : s.claimAt c = some b) :
    s.dueOn c = if b.state.wait.isSome then (s.session b.session).channel else none := by
  rw [State.dueOn, hb, Option.bind_some]

theorem dueOn_of_none (hc : s.claimAt c = none) : s.dueOn c = none := by rw [State.dueOn, hc, Option.bind_none]

theorem dueOn_eq_some : s.dueOn c = some n ↔
    ∃ b, s.claimAt c = some b ∧ b.state.wait.isSome = true ∧ (s.session b.session).channel = some n := by
  rw [State.dueOn, Option.bind_eq_some_iff]
  exact exists_congr fun b => and_congr_right fun _ => by split_ifs <;> simp_all

theorem dueOn_of_not_waiting (h : s.isWaiting c = false) : s.dueOn c = none := by
  rw [State.isWaiting] at h
  rcases hb : s.claimAt c with _ | b
  · exact dueOn_of_none hb
  · have hw : b.state.wait.isSome = false := by simpa [hb] using h
    rw [dueOn_of_claimAt hb, hw]
    rfl

theorem claimChannel_of_waiting (h : s.isWaiting c = true) : s.claimChannel c = s.dueOn c := by
  rw [State.isWaiting] at h
  rcases hb : s.claimAt c with _ | b
  · simp [hb] at h
  · have hw : b.state.wait.isSome = true := by simpa [hb] using h
    rw [dueOn_of_claimAt hb, if_pos hw, State.claimChannel, hb, Option.bind_some]

/-- Claims with the same waits in sessions of the same channels have the same replies due. -/
theorem dueOn_congr (hc : (t.claimAt c).map (fun b => (b.session, b.state.wait.isSome)) =
      (s.claimAt c).map fun b => (b.session, b.state.wait.isSome))
    (hch : ∀ i, (t.session i).channel = (s.session i).channel) : t.dueOn c = s.dueOn c := by
  rw [State.dueOn, State.dueOn]
  rcases ht : t.claimAt c with _ | b <;> rcases hs : s.claimAt c with _ | b' <;> rw [ht, hs] at hc <;> simp_all

@[simp] theorem mem_waiters : c ∈ s.waiters n ↔ s.dueOn c = some n := by
  rw [State.waiters, Finset.mem_filter, List.mem_toFinset, Table.mem_indices]
  refine ⟨fun h => h.2, fun h => ⟨fun hreset => ?_, h⟩⟩
  obtain ⟨b, hb, -⟩ := dueOn_eq_some.mp h
  rw [State.claimAt, State.claim, hreset] at hb
  cases hb

theorem count_waiters {p : ClaimRec → Bool} (hp : ∀ k, p (s.claims.get k) = true ↔ s.dueOn k = some n) :
    s.claims.count p = (s.waiters n).card := by
  rw [Table.count_eq_card, State.waiters]
  exact congrArg _ (Finset.filter_congr fun k _ => hp k)

/-- The reservations of a channel, counted claim by claim. -/
theorem reserved_eq (s : State) (n : Nat) : s.reserved n =
    (s.waiters n).card + s.repliesDue n + if (s.chan n).state = .active then (s.chan n).fetched else 0 := by
  rw [State.reserved, count_waiters (s := s) (n := n) fun k => ?_]
  · rfl
  · rw [State.dueOn, State.claimAt, State.claim]
    rcases (s.claims.get k).claim with _ | b
    · simp
    · by_cases h : b.state.wait.isSome = true <;> simp [h]

/-! ### The invariant within a command -/

/-- The reservations within a command, where a reply that the command is still to give on a channel stands in `l`: on an ACTIVE
channel the owed count is what is reserved and what is still to be given, and it fits (R129); others owe nothing (R136). -/
structure Owing (l : List Nat) (s : State) : Prop where
  owed : ∀ n, (s.dues n).state = .active →
    (s.dues n).owed = (s.waiters n).card + s.repliesDue n + (s.dues n).fetched + l.count n
  fits : ∀ n, (s.dues n).state = .active → (s.dues n).written + (s.dues n).owed < (s.dues n).size
  quiet : ∀ n, (s.dues n).state ≠ .active → (s.dues n).owed = 0

/-- The states agree in what the reservations count. -/
structure SameBooks (s t : State) : Prop where
  dues : ∀ n, t.dues n = s.dues n
  due : ∀ c, t.dueOn c = s.dueOn c
  replies : t.teardownReplies = s.teardownReplies
  channels : ∀ i, (t.session i).channel = (s.session i).channel

theorem Owing.congr (hs : Owing l s) (hd : ∀ n, t.dues n = s.dues n)
    (hw : ∀ n, (s.dues n).state = .active → ((t.waiters n).card + t.repliesDue n) + l'.count n =
      ((s.waiters n).card + s.repliesDue n) + l.count n) : Owing l' t := by
  refine ⟨fun n hn => ?_, fun n hn => ?_, fun n hn => ?_⟩ <;> rw [hd] at hn ⊢
  · have := hw n hn
    have := hs.owed n hn
    omega
  · exact hs.fits n hn
  · exact hs.quiet n hn

/-- Waits change on channels that are not ACTIVE only. -/
theorem Owing.of_due (hs : Owing l s) (hd : ∀ n, t.dues n = s.dues n)
    (hw : ∀ n, (s.dues n).state = .active → ∀ c, t.dueOn c = some n ↔ s.dueOn c = some n)
    (hr : t.teardownReplies = s.teardownReplies) : Owing l t := by
  refine hs.congr hd fun n hn => ?_
  have hwaiters : t.waiters n = s.waiters n := by ext c; simp [hw n hn]
  rw [hwaiters, State.repliesDue, State.repliesDue, hr]

theorem Owing.same (hs : Owing l s) (h : SameBooks s t) : Owing l t :=
  hs.of_due h.dues (fun _ _ c => by rw [h.due]) h.replies

/-- The wait of a claim ends, and its reply is still to be given. -/
theorem Owing.unwaited (hs : Owing l s) (hd : ∀ n, t.dues n = s.dues n) (hc : s.dueOn c = some ch)
    (hw : ∀ k, t.dueOn k = if k = c then none else s.dueOn k) (hr : t.teardownReplies = s.teardownReplies) :
    Owing (ch :: l) t := by
  refine hs.congr hd fun n _ => ?_
  have hwaiters : t.waiters n = (s.waiters n).erase c := by
    ext k
    rw [Finset.mem_erase, mem_waiters, mem_waiters, hw]
    split_ifs with hk <;> simp [hk]
  rw [hwaiters, State.repliesDue, State.repliesDue, hr, List.count_cons]
  by_cases hn : ch = n
  · subst hn
    have hmem : c ∈ s.waiters ch := mem_waiters.mpr hc
    have hpos := Finset.card_pos.mpr ⟨c, hmem⟩
    rw [Finset.card_erase_of_mem hmem]
    simp
    omega
  · have hmem : c ∉ s.waiters n := by simp [hc, hn]
    rw [Finset.erase_eq_of_notMem hmem]
    simp [hn]

/-- A claim begins to wait, with the reply that was still to be given. -/
theorem Owing.waited (hs : Owing (ch :: l) s) (hd : ∀ n, t.dues n = s.dues n) (hc : s.dueOn c = none)
    (hw : ∀ k, t.dueOn k = if k = c then some ch else s.dueOn k) (hr : t.teardownReplies = s.teardownReplies) : Owing l t := by
  refine hs.congr hd fun n _ => ?_
  rw [State.repliesDue, State.repliesDue, hr, List.count_cons]
  by_cases hn : ch = n
  · subst hn
    have hmem : c ∉ s.waiters ch := by simp [hc]
    have hwaiters : t.waiters ch = insert c (s.waiters ch) := by
      ext k
      rw [Finset.mem_insert, mem_waiters, mem_waiters, hw]
      split_ifs with hk <;> simp [hk]
    rw [hwaiters, Finset.card_insert_of_notMem hmem]
    simp
    omega
  · have hwaiters : t.waiters n = s.waiters n := by
      ext k
      rw [mem_waiters, mem_waiters, hw]
      split_ifs with hk
      · simp [hk, hn, hc]
      · rfl
    rw [hwaiters]
    simp [hn]

/-! ### Replies and notices (R130, R142) -/

theorem dues_setChan (s : State) (ch : Nat) (x : Channel) (n : Nat) :
    (s.setChan ch x).dues n = if n = ch then x.dues else s.dues n := by
  rw [State.dues, State.chan_setChan]
  split_ifs <;> rfl

theorem dues_hand (s : State) (ch : Nat) (r : Reply) (n : Nat) :
    (s.hand ch r).dues n = if n = ch ∧ (s.dues ch).state = .active then (s.dues n).paid else s.dues n := by
  rw [State.hand]
  by_cases ha : (s.chan ch).state = .active
  · rw [if_pos ha, dues_setChan]
    by_cases hn : n = ch
    · rw [if_pos hn, if_pos ⟨hn, ha⟩, hn]
      simp [Channel.dues, State.dues, Dues.paid, Channel.issue, Channel.written, Channel.fetched, Channel.rplSize, Nat.add_assoc]
    · rw [if_neg hn, if_neg fun h => hn h.1]
  · rw [if_neg ha, if_neg fun h => ha h.2]

/-- Books whose channels are those behind a reply handed. -/
theorem dues_hand_congr (h : ∀ n, t.dues n = s.dues n) (ch : Nat) (r r' : Reply) (n : Nat) :
    (t.hand ch r).dues n = (s.hand ch r').dues n := by
  rw [dues_hand, dues_hand, h, h]

theorem dueOn_of_tables (hc : t.claims = s.claims) (hs : t.sessions = s.sessions) (c : Nat) : t.dueOn c = s.dueOn c := by
  simp only [State.dueOn, State.claimAt, State.claim, State.session, hc, hs]

theorem waiters_congr (h : ∀ c, t.dueOn c = s.dueOn c) (n : Nat) : t.waiters n = s.waiters n := by ext c; simp [h]

theorem Owing.hand (hs : Owing (ch :: l) s) (r : Reply) : Owing l (s.hand ch r) := by
  have hwaiters (n : Nat) : (s.hand ch r).waiters n = s.waiters n := waiters_congr (dueOn_of_tables (by simp) (by simp)) n
  have hreplies (n : Nat) : (s.hand ch r).repliesDue n = s.repliesDue n := by
    rw [State.repliesDue, State.hand_teardownReplies]
    rfl
  by_cases ha : (s.dues ch).state = .active
  · have howed := hs.owed ch ha
    have hfits := hs.fits ch ha
    rw [List.count_cons_self] at howed
    refine ⟨fun n hn => ?_, fun n hn => ?_, fun n hn => ?_⟩ <;> rw [dues_hand] at hn ⊢ <;> split_ifs at hn ⊢ with h
    · rw [hwaiters, hreplies, h.1]
      simp only [Dues.paid]
      omega
    · rw [hwaiters, hreplies]
      rw [hs.owed n hn, List.count_cons_of_ne fun h' => h ⟨h'.symm, ha⟩]
    · rw [h.1]
      simp only [Dues.paid]
      omega
    · exact hs.fits n hn
    · exact absurd (h.1 ▸ ha) hn
    · exact hs.quiet n hn
  · refine hs.congr (fun n => by rw [dues_hand, if_neg fun h => ha h.2]) fun n hn => ?_
    rw [hwaiters, hreplies, List.count_cons_of_ne (by rintro rfl; exact ha hn)]

/-- A channel's entry written into a slot that is not reserved (R129). -/
theorem Owing.written (hs : Owing l s) {x : Channel} (hx : x.dues = { s.dues ch with written := (s.dues ch).written + 1 })
    (hfree : 1 ≤ (s.chan ch).unreserved) : Owing l (s.setChan ch x) := by
  have hroom : (s.dues ch).written + 1 + (s.dues ch).owed < (s.dues ch).size := by
    rw [Channel.unreserved, Channel.capacity] at hfree
    show (s.chan ch).written + 1 + (s.chan ch).owed < (s.chan ch).rplSize
    omega
  have hwaiters (n : Nat) : (s.setChan ch x).waiters n = s.waiters n := waiters_congr (dueOn_of_tables rfl rfl) n
  refine ⟨fun n hn => ?_, fun n hn => ?_, fun n hn => ?_⟩ <;> rw [dues_setChan] at hn ⊢ <;> split_ifs at hn ⊢ with h
  · rw [hx] at hn ⊢
    rw [hwaiters, h]
    exact hs.owed ch hn
  · rw [hwaiters]
    exact hs.owed n hn
  · rw [hx]
    exact hroom
  · exact hs.fits n hn
  · rw [hx] at hn ⊢
    exact hs.quiet ch hn
  · exact hs.quiet n hn

theorem SameBooks.trans (h : SameBooks s t) (h' : SameBooks t u) : SameBooks s u :=
  ⟨fun n => (h'.dues n).trans (h.dues n), fun c => (h'.due c).trans (h.due c), h'.replies.trans h.replies,
    fun i => (h'.channels i).trans (h.channels i)⟩

theorem SameBooks.of_tables (hd : ∀ n, t.dues n = s.dues n) (hc : t.claims = s.claims) (hs : t.sessions = s.sessions)
    (hr : t.teardownReplies = s.teardownReplies) : SameBooks s t :=
  ⟨hd, dueOn_of_tables hc hs, hr, fun i => by rw [State.session, State.session, hs]⟩

theorem sameBooks_setChan {x : Channel} (hx : x.dues = s.dues ch) : SameBooks s (s.setChan ch x) :=
  .of_tables (fun n => by
    rw [dues_setChan]
    split_ifs with h
    · rw [hx, h]
    · rfl) rfl rfl rfl

theorem sameBooks_dropNotices (s : State) (ch : Nat) (p : Notice → Bool) : SameBooks s (s.dropNotices ch p) :=
  sameBooks_setChan rfl

/-- A session record that stays on its channel. -/
theorem sameBooks_setSession {x : SessionRec} (hx : x.channel = (s.session i).channel) : SameBooks s (s.setSession i x) := by
  have hch (j : Nat) : ((s.setSession i x).session j).channel = (s.session j).channel := by
    rw [State.session_setSession]
    split_ifs with h
    · rw [hx, h]
    · rfl
  exact ⟨fun _ => rfl, fun c => dueOn_congr rfl hch, rfl, hch⟩

theorem sameBooks_markLapse (s : State) (n : Notice) (v : Bool) : SameBooks s (s.markLapse n v) := by
  have hself : SameBooks s s := .of_tables (fun _ => rfl) rfl rfl rfl
  unfold State.markLapse
  split
  · split
    · rename_i h
      exact sameBooks_setSession (by simp [SessionRec.channel, h])
    exacts [hself, hself]
  exacts [hself, hself]

theorem Owing.raise (hs : Owing l s) (ch : Nat) (n : Notice) : Owing l (s.raise ch n) := by
  unfold State.raise
  dsimp only
  split_ifs with ha h
  · exact hs.written (by simp [Channel.dues, State.dues, Channel.issue, Channel.written, Channel.fetched, Channel.rplSize,
      Nat.add_assoc]) h.2
  · have hkeep : SameBooks s (s.setChan ch { s.chan ch with notices := (s.chan ch).notices ++ [n] }) := sameBooks_setChan rfl
    exact hs.same (hkeep.trans (sameBooks_markLapse ..))
  · exact hs

/-! ### Claims and ways -/

theorem dues_of_channels (h : t.channels = s.channels) (n : Nat) : t.dues n = s.dues n := by
  rw [State.dues, State.dues, State.chan, State.chan, h]

theorem sameBooks_modEntry (s : State) (w : Nat) (f : Entry → Entry) : SameBooks s (s.modEntry w f) :=
  .of_tables (dues_of_channels (by simp)) (by simp) (by simp) (by simp)

theorem sameBooks_settle (s : State) (w : Nat) : SameBooks s (s.settle w) :=
  .of_tables (dues_of_channels (by simp)) (by simp) (by simp) (by simp)

/-- A claim that waits as before. -/
theorem sameBooks_modClaim (s : State) (c : Nat) (f : Claim → Claim)
    (hf : ∀ b, s.claimAt c = some b → (f b).session = b.session ∧ (f b).state.wait.isSome = b.state.wait.isSome) :
    SameBooks s (s.modClaim c f) := by
  refine ⟨dues_of_channels (by simp), fun k => dueOn_congr ?_ fun i => by simp, by simp, fun i => by simp⟩
  rw [State.claimAt_modClaim]
  split_ifs with hk
  · rw [hk]
    rcases hb : s.claimAt c with _ | b
    · rfl
    · simp [hf b hb]
  · rfl

theorem sameBooks_dropContention (s : State) (c : Nat) : SameBooks s (s.dropContention c) := by
  unfold State.dropContention
  split
  · exact sameBooks_dropNotices ..
  · exact .of_tables (fun _ => rfl) rfl rfl rfl

theorem sameBooks_clearNoticed (s : State) (c : Nat) : SameBooks s (s.clearNoticed c) :=
  (sameBooks_modClaim s c (fun b => { b with noticed := false }) fun _ _ => ⟨rfl, rfl⟩).trans (sameBooks_dropContention ..)

end

end Sys2Proof.Machine
end

section
/-! PROOFS. The reservations through the parts that many commands share: the ends of waits, the grant pass and the withdrawals
(R34, R53, R82, R86, R91, R136). -/

namespace Sys2Proof.Machine

section
variable {s t : State} {n ch c w : Nat} {b : Claim} {l : List Nat} {r : Reply} {m x : Mode} {wait : Wait}

/-! ### The ends of waits -/

@[simp] theorem handClaim_teardownReplies (s : State) (c : Nat) (r : Reply) :
    (s.handClaim c r).teardownReplies = s.teardownReplies := by
  rw [State.handClaim_frame]

@[simp] theorem session_handClaim (s : State) (c i : Nat) (r : Reply) : (s.handClaim c r).session i = s.session i := by
  rw [State.handClaim_frame]
  rfl

theorem dues_handClaim_congr (h : ∀ n, t.dues n = s.dues n) (hc : t.claimChannel c = s.claimChannel c) (r r' : Reply) (n : Nat) :
    (t.handClaim c r).dues n = (s.handClaim c r').dues n := by
  rw [State.handClaim, State.handClaim, hc]
  rcases s.claimChannel c with _ | ch
  · exact h n
  · exact dues_hand_congr h ch r r' n

/-- Only claim `c` has changed, and it waits no more. -/
theorem dueOn_ended (hch : ∀ i, (t.session i).channel = (s.session i).channel) (hne : ∀ k, k ≠ c → t.claimAt k = s.claimAt k)
    (hc : t.isWaiting c = false) (k : Nat) : t.dueOn k = if k = c then none else s.dueOn k := by
  split_ifs with hk
  · rw [hk, dueOn_of_not_waiting hc]
  · exact dueOn_congr (by rw [hne k hk]) hch

/-- The wait of claim `c` has ended and its deferred reply has been handed (R53). -/
theorem Owing.answered (hs : Owing l s) (hc : s.isWaiting c = true) (hd : ∀ n, t.dues n = (s.handClaim c r).dues n)
    (hw : ∀ k, t.dueOn k = if k = c then none else s.dueOn k) (hr : t.teardownReplies = s.teardownReplies) : Owing l t := by
  simp only [State.handClaim, claimChannel_of_waiting hc] at hd
  rcases hdue : s.dueOn c with _ | ch
  · rw [hdue] at hd
    refine hs.of_due hd (fun n _ k => ?_) hr
    rw [hw]
    split_ifs with hk
    · rw [hk, hdue]
      simp
    · rfl
  · rw [hdue] at hd
    have hended : Owing (ch :: l) { s with claims := t.claims, sessions := t.sessions } :=
      hs.unwaited (fun _ => rfl) hdue hw rfl
    refine (hended.hand r).of_due (fun n => ?_) (fun n _ k => ?_) (by simp [hr])
    · rw [hd]
      exact dues_hand_congr (t := s) (s := { s with claims := t.claims, sessions := t.sessions }) (fun _ => rfl) ch r r n
    · rw [dueOn_of_tables (State.hand_claims ..) (State.hand_sessions ..)]
      rfl

theorem dues_dropContention (s : State) (c n : Nat) : (s.dropContention c).dues n = s.dues n :=
  (sameBooks_dropContention s c).dues n

theorem dues_freeClaim (s : State) (c n : Nat) : (s.freeClaim c).dues n = s.dues n := by
  unfold State.freeClaim
  split
  · refine (dues_of_channels ?_ n).trans (dues_dropContention s c n)
    simp
  · rfl

theorem isWaiting_freeClaim (s : State) (c : Nat) : (s.freeClaim c).isWaiting c = false := by
  rw [State.isWaiting, State.claimAt_freeClaim, if_pos rfl]
  rfl

theorem isWaiting_endConversion (hb : s.claimAt c = some b) (hst : b.state = .converting x m wait) :
    (s.endConversion c).isWaiting c = false := by
  rw [State.isWaiting, State.claimAt_endConversion, if_pos rfl, hb, Option.map_some, hst]
  rfl

theorem channel_freeClaim (s : State) (c i : Nat) : ((s.freeClaim c).session i).channel = (s.session i).channel :=
  core_channel (.one (.freed c)) i

/-- The answer to a wait is a reply handed to the channel of its claim (R53). -/
theorem answer_of_waiting (hc : s.isWaiting c = true) (st : Status) (full : Bool) :
    ∃ r, s.answer c st full = s.handClaim c r := by
  rw [State.isWaiting] at hc
  unfold State.answer
  split
  · split
    · exact ⟨_, rfl⟩
    · exact ⟨_, rfl⟩
    · simp [*, ClaimState.wait] at hc
  · simp [*] at hc

theorem Owing.answeredFreed (hs : Owing l s) (hc : s.isWaiting c = true) (st : Status) (full : Bool) :
    Owing l ((s.answer c st full).freeClaim c) := by
  obtain ⟨r, hr⟩ := answer_of_waiting hc st full
  refine hs.answered (r := r) hc (fun n => by rw [dues_freeClaim, hr]) ?_ (by simp [hr])
  refine dueOn_ended (fun i => ?_) (fun k hk => ?_) (isWaiting_freeClaim ..)
  · rw [channel_freeClaim, hr, session_handClaim]
  · rw [State.claimAt_freeClaim, if_neg hk, claimAt_answer]

theorem Owing.answeredReverted (hs : Owing l s) (hb : s.claimAt c = some b) (hst : b.state = .converting x m wait)
    (st : Status) (full : Bool) : Owing l ((s.answer c st full).endConversion c) := by
  have hc : s.isWaiting c = true := by
    rw [State.isWaiting, hb, Option.bind_some, hst]
    rfl
  obtain ⟨r, hr⟩ := answer_of_waiting hc st full
  refine hs.answered (r := r) hc (fun n => by rw [dues_of_channels (State.endConversion_channels ..), hr]) ?_ (by simp [hr])
  refine dueOn_ended (fun i => ?_) (fun k hk => ?_) (isWaiting_endConversion (b := b) (by rwa [claimAt_answer]) hst)
  · rw [State.session_endConversion, hr, session_handClaim]
  · rw [State.claimAt_endConversion, if_neg hk, claimAt_answer]

theorem Owing.endWait (hs : Owing l s) (c : Nat) (st : Status) : Owing l (s.endWait c st) := by
  unfold State.endWait
  split
  · rename_i b hb
    split
    · rename_i hst
      exact hs.answeredFreed (by simp [State.isWaiting, hb, hst, ClaimState.wait]) ..
    · rename_i hst
      exact hs.answeredReverted hb hst ..
    · exact hs
  · exact hs

/-- A claim that waits for no reply is freed. -/
theorem sameBooks_freeClaim (hc : s.isWaiting c = false) : SameBooks s (s.freeClaim c) := by
  refine ⟨dues_freeClaim s c, fun k => ?_, by simp, channel_freeClaim s c⟩
  rw [dueOn_ended (channel_freeClaim s c) (fun k hk => by rw [State.claimAt_freeClaim, if_neg hk]) (isWaiting_freeClaim s c)]
  split_ifs with hk
  · rw [hk, dueOn_of_not_waiting hc]
  · rfl

/-! ### Grants (R35, R36, R39) -/

theorem isWaiting_hold (s : State) (c w : Nat) (m : Mode) : (s.hold c w m).isWaiting c = false := by
  rw [State.isWaiting, State.claimAt_hold, if_pos rfl]
  cases s.claimAt c <;> rfl

theorem claimChannel_hold (s : State) (c w : Nat) (m : Mode) : (s.hold c w m).claimChannel c = s.claimChannel c := by
  rw [State.claimChannel, State.claimAt_hold, if_pos rfl, State.claimChannel]
  cases s.claimAt c <;> simp

theorem Owing.granted (hs : Owing l s) (hc : s.isWaiting c = true) (k : Kind) (tag : ReqTag) (w : Nat) (m : Mode) :
    Owing l (s.grant k tag c w m) := by
  unfold State.grant
  refine hs.answered (r := ((s.hold c w m).grantedReply k tag c w m)) hc (fun n => ?_) ?_ ?_
  · exact dues_handClaim_congr (dues_of_channels (State.hold_channels ..)) (claimChannel_hold ..) _ _ n
  · refine dueOn_ended (fun i => ?_) (fun k hk => ?_) ?_
    · rw [session_handClaim, State.session_hold]
    · rw [claimAt_handClaim, State.claimAt_hold, if_neg hk]
    · rw [State.isWaiting, claimAt_handClaim]
      exact isWaiting_hold ..
  · rw [handClaim_teardownReplies, State.hold_teardownReplies]

theorem Owing.convertTurn (hs : Owing l s) (h : s.convertTurn w = some t) : Owing l t := by
  obtain ⟨c, rest, b, x, m, wait, -, hb, hst, rfl | rfl⟩ := convertTurn_cases h
  · exact hs.endWait ..
  · have hready : SameBooks s ((s.clearNoticed c).modEntry w fun e => { e with converts := e.converts.filter (· != c) }) :=
      (sameBooks_clearNoticed s c).trans (sameBooks_modEntry ..)
    obtain ⟨b', hb', hst', -⟩ := claimAt_clearNoticed (c := c) hb
    refine (hs.same hready).granted ?_ ..
    rw [State.isWaiting, State.claimAt_modEntry, hb']
    simp [hst', hst, ClaimState.wait]

theorem Owing.waitTurn (hs : Owing l s) (h : s.waitTurn w = some t) : Owing l t := by
  obtain ⟨c, rest, b, m, wait, -, -, hb, hst, rfl | rfl⟩ := waitTurn_cases h
  · exact hs.endWait ..
  · refine (hs.same (sameBooks_modEntry ..)).granted ?_ ..
    rw [State.isWaiting, State.claimAt_modEntry, hb]
    simp [hst, ClaimState.wait]

theorem Owing.foldl {α : Type} {f : State → α → State} (hf : ∀ u a, Owing l u → Owing l (f u a)) (hs : Owing l s) (as : List α) :
    Owing l (as.foldl f s) := by
  induction as generalizing s with
  | nil => exact hs
  | cons a as ih => exact ih (hf _ a hs)

theorem Owing.tell (hs : Owing l s) (w head : Nat) (q : QueueKind) (c : Nat) : Owing l (s.tell w head q c) := by
  rcases tell_cases s w head q c with h | ⟨ch, n, h⟩ <;> rw [h]
  · exact hs
  · exact (hs.raise ch n).same (sameBooks_modClaim _ c _ fun _ _ => ⟨rfl, rfl⟩)

theorem Owing.finish (hs : Owing l s) (w : Nat) : Owing l (s.finish w) := by
  have hturned : Owing l (s.turned w) := turned_keeps (fun _ _ h => h.convertTurn) (fun _ _ h => h.waitTurn) hs
  have htold : Owing l ((s.turned w).tellHolders w) := by
    unfold State.tellHolders
    split
    · exact Owing.foldl (fun _ c h => h.tell _ _ _ c) hturned _
    · exact hturned
  rw [finish_eq]
  exact htold.same (sameBooks_settle ..)

theorem Owing.failConversions (hs : Owing l s) (w : Nat) : Owing l (s.failConversions w) :=
  Owing.foldl (fun _ c h => h.endWait c _) hs _

/-! ### Withdrawals -/

theorem Owing.withdrawn (hs : Owing l s) (c : Nat) (st : Status) (v : Bool) : Owing l (s.withdraw c (some st) v) := by
  have hfreed : Owing l ((s.answer c st false).freeClaim c) := by
    by_cases hc : s.isWaiting c = true
    · exact hs.answeredFreed hc st false
    · have hc' : s.isWaiting c = false := by simpa using hc
      have hsame : s.answer c st false = s := by
        unfold State.answer
        split
        · split <;> simp_all [State.isWaiting, ClaimState.wait]
        · rfl
      rw [hsame]
      exact hs.same (sameBooks_freeClaim hc')
  unfold State.withdraw
  split
  · dsimp only
    split_ifs
    · exact hfreed.same (sameBooks_modEntry ..)
    · exact hfreed
  · exact hs

theorem Owing.withdrawPart (hs : Owing l s) (c : Nat) (st : Status) (v : Bool) : Owing l (s.withdrawPart c (some st) v) := by
  unfold State.withdrawPart
  split
  · exact (hs.withdrawn c st v).finish _
  · exact hs

/-! ### The withdrawals of a channel that is no longer ACTIVE (R91, R136) -/

/-- The claims are of sessions of channel `ch`, which is not ACTIVE. -/
structure Stopped (ch : Nat) (claims : List Nat) (s : State) : Prop where
  stopped : (s.dues ch).state ≠ .active
  channel : ∀ c ∈ claims, ∀ b, s.claimAt c = some b → (s.session b.session).channel = some ch

theorem Stopped.after {claims : List Nat} (hs : Stopped ch claims s) (h : Core s t) : Stopped ch claims t := by
  obtain ⟨hstates, -⟩ := core_frame h
  refine ⟨?_, fun c hc b hb => ?_⟩
  · show (t.chan ch).state ≠ .active
    rw [hstates]
    exact hs.stopped
  · obtain ⟨b₀, hb₀, hsession, -⟩ := core_origin h hb
    rw [core_channel h, hsession]
    exact hs.channel c hc b₀ hb₀

/-- A claim of a channel that is not ACTIVE waits no more, without a reply. -/
theorem Owing.dropped {claims : List Nat} (hs : Owing l s) (h : Stopped ch claims s) (hc : c ∈ claims)
    (hd : ∀ n, t.dues n = s.dues n)
    (hw : ∀ k, t.dueOn k = if k = c then none else s.dueOn k) (hr : t.teardownReplies = s.teardownReplies) : Owing l t := by
  refine hs.of_due hd (fun n hn k => ?_) hr
  rw [hw]
  split_ifs with hk
  · refine iff_of_false (by simp) fun hdue => ?_
    obtain ⟨b, hb, -, hch⟩ := dueOn_eq_some.mp hdue
    rw [h.channel k (hk ▸ hc) b hb] at hch
    exact h.stopped (Option.some.inj hch ▸ hn)
  · rfl

theorem Owing.droppedFreed {claims : List Nat} (hs : Owing l s) (h : Stopped ch claims s) (hc : c ∈ claims) :
    Owing l (s.freeClaim c) :=
  hs.dropped h hc (dues_freeClaim s c) (dueOn_ended (channel_freeClaim s c) (fun k hk => by rw [State.claimAt_freeClaim, if_neg hk])
    (isWaiting_freeClaim s c)) (by simp)

theorem Owing.withdrawWait {claims : List Nat} (hs : Owing l s) (h : Stopped ch claims s) (hc : c ∈ claims) :
    Owing l (s.withdrawWait c) := by
  unfold State.withdrawWait
  split
  · rename_i b hb
    split
    · exact hs.droppedFreed h hc
    · rename_i hst
      exact hs.dropped h hc (dues_of_channels (by simp)) (dueOn_ended (fun i => by simp)
        (fun k hk => by rw [State.claimAt_endConversion, if_neg hk]) (isWaiting_endConversion hb hst)) (by simp)
    · exact hs
  · exact hs

theorem Owing.withdrawSilently {claims : List Nat} (hs : Owing l s) (h : Stopped ch claims s) (hc : c ∈ claims) (v : Bool) :
    Owing l (s.withdraw c none v) := by
  unfold State.withdraw
  split
  · dsimp only
    split_ifs
    · exact (hs.droppedFreed h hc).same (sameBooks_modEntry ..)
    · exact hs.droppedFreed h hc
  · exact hs

theorem Owing.withdrawAll {lists : List (List Nat)} {claims : List Nat} {f : State → Nat → State} (hs : Owing l s)
    (h : Stopped ch claims s) (hcore : ∀ u k, Core u (f u k))
    (hf : ∀ u k, k ∈ claims → Stopped ch claims u → Owing l u → Owing l (f u k)) : Owing l (s.withdrawAll lists claims f) := by
  have hclaims (u : State) (ks : List Nat) (hks : ks ⊆ claims) (hu : Owing l u ∧ Stopped ch claims u) :
      Owing l (ks.foldl f u) ∧ Stopped ch claims (ks.foldl f u) := by
    induction ks generalizing u with
    | nil => exact hu
    | cons k ks ih =>
      obtain ⟨hk, hks⟩ := List.cons_subset.mp hks
      exact ih _ hks ⟨hf u k hk hu.2 hu.1, hu.2.after (hcore u k)⟩
  have hparts (parts : List (Nat × List Nat)) (u : State) (hparts : ∀ p ∈ parts, p.2 ⊆ claims)
      (hu : Owing l u ∧ Stopped ch claims u) : Owing l (parts.foldl (State.withdrawPartOf f) u) := by
    induction parts generalizing u with
    | nil => exact hu.1
    | cons p parts ih =>
      obtain ⟨ho, hst⟩ := hclaims u p.2 (hparts p List.mem_cons_self) hu
      exact ih _ (fun q hq => hparts q (List.mem_cons_of_mem _ hq)) ⟨ho.finish p.1, hst.after (core_finish ..)⟩
  refine hparts _ _ (fun p hp => ?_) ⟨hs.same (.of_tables (fun _ => rfl) rfl rfl rfl), h.after (.one (.choose _))⟩
  obtain ⟨w, -, rfl⟩ := List.mem_map.mp hp
  exact List.filter_subset_self ..

end

end Sys2Proof.Machine
end

section
/-! PROOFS. The reservations through the client requests (R25, R129): each gives the reply that its entry reserved, or lets a
claim wait with it. -/

namespace Sys2Proof.Machine

section
variable {s t : State} {n ch c i w : Nat} {b : Claim} {l l' : List Nat} {m x : Mode} {tag : ReqTag}

/-! ### The reservations between commands and within them -/

/-- The reservations are in order but for the replies of `l`, still to be given; only an ACTIVE channel has some; no session is of
channel 0, and only a CLOSING channel has a pending teardown reply. -/
structure Kept (l : List Nat) (s : State) : Prop where
  owing : Owing l s
  idle : ∀ n c, s.dueOn c = some n → (s.chan n).state = .active
  discharged : (s.chan 0).state ≠ .active → ∀ n, s.teardownReplies.get n = none
  client : ∀ i, (s.session i).channel ≠ some 0
  closing : ∀ n, s.teardownReplies.get n ≠ none → (s.chan n).state = .closing

theorem Table.get_eq_none_of_count {α : Type} (t : Table (Option α) none) (h : t.count (·.isSome) = 0) (n : Nat) :
    t.get n = none := by
  rw [t.count_eq_card, Finset.card_eq_zero, Finset.filter_eq_empty_iff] at h
  by_contra hn
  exact h (List.mem_toFinset.mpr ((t.mem_indices n).mpr hn)) (Option.isSome_iff_ne_none.mpr hn)

theorem rplSize_pos (hr : RingsKept s) (hn : (s.chan n).state = .active) : 0 < (s.chan n).rplSize := by
  obtain ⟨-, -, -, h⟩ := hr.indices n hn
  exact Nat.zero_lt_of_lt h

theorem ReservationsKept.kept (hs : ReservationsKept s) (hq : ChannelsQuiet s) (hr : RingsKept s) : Kept [] s := by
  have hreserved (n : Nat) := (hs.owed n).trans (reserved_eq s n)
  have hnone (n : Nat) (hn : (s.chan n).state ≠ .active) : s.waiters n = ∅ ∧ s.repliesDue n = 0 := by
    have h := hreserved n
    rw [hq.owed n hn, if_neg hn] at h
    exact ⟨Finset.card_eq_zero.mp (by omega), by omega⟩
  refine ⟨⟨fun n hn => ?_, fun n hn => ?_, hq.owed⟩, fun n c hc => ?_, fun h0 n => ?_, hs.client, hs.teardown⟩
  · have h := hreserved n
    rw [if_pos (show (s.chan n).state = .active from hn)] at h
    exact h
  · have h := hs.within n hn
    have hpos := rplSize_pos hr hn
    rw [← ringDiff_eq hpos] at h
    show (s.chan n).written + (s.chan n).owed < (s.chan n).rplSize
    rw [Channel.written]
    omega
  · by_contra hn
    have hmem := mem_waiters.mpr hc
    rw [(hnone n hn).1] at hmem
    exact Finset.notMem_empty c hmem
  · have h := (hnone 0 h0).2
    exact Table.get_eq_none_of_count _ (by simpa [State.repliesDue] using h) n

theorem Kept.reservationsKept (hs : Kept [] s) : ReservationsKept s := by
  refine ⟨fun n => ?_, fun n hn => ?_, hs.client, hs.closing⟩
  · rw [reserved_eq]
    by_cases hn : (s.chan n).state = .active
    · rw [if_pos hn]
      exact hs.owing.owed n hn
    · have hwaiters : s.waiters n = ∅ := Finset.eq_empty_iff_forall_notMem.mpr fun c hc => hn (hs.idle n c (mem_waiters.mp hc))
      have hreplies : s.repliesDue n = 0 := by
        rw [State.repliesDue]
        split_ifs with h0
        · subst h0
          exact Table.count_empty_of_get _ _ fun k => by rw [hs.discharged hn k]; rfl
        · rfl
      rw [if_neg hn, hwaiters, hreplies]
      exact hs.owing.quiet n hn
  · have hfits : (s.chan n).written + (s.chan n).owed < (s.chan n).rplSize := hs.owing.fits n hn
    rw [← ringDiff_eq (by omega)]
    rw [Channel.written] at hfits
    omega

theorem core_replies (h : Core s t) : t.teardownReplies = s.teardownReplies := by
  induction h with
  | refl => rfl
  | tail _ h ih => rw [← ih]; cases h <;> simp

/-- The shared parts make no reply due. -/
theorem core_dueOn (h : Core s t) (hc : t.dueOn c = some n) : s.dueOn c = some n := by
  obtain ⟨b, hb, hwait, hch⟩ := dueOn_eq_some.mp hc
  obtain ⟨b₀, hb₀, hsession, -, hstate⟩ := core_origin h hb
  refine dueOn_eq_some.mpr ⟨b₀, hb₀, ?_, ?_⟩
  · rcases hstate with hstate | hstate
    · rwa [← hstate]
    · rw [hstate] at hwait
      cases hwait
  · rwa [← core_channel h, ← hsession]

/-- The shared parts give replies and end waits, and leave the rest as it is. -/
theorem Kept.after (hs : Kept l s) (h : Core s t) (ho : Owing l' t) : Kept l' t := by
  obtain ⟨hstates, -⟩ := core_frame h
  refine ⟨ho, fun n c hc => ?_, fun h0 n => ?_, fun i => ?_, fun n hn => ?_⟩
  · rw [hstates]
    exact hs.idle n c (core_dueOn h hc)
  · rw [core_replies h]
    exact hs.discharged (by rwa [← hstates]) n
  · rw [core_channel h]
    exact hs.client i
  · rw [hstates]
    exact hs.closing n (by rwa [← core_replies h])

theorem SameBooks.state (h : SameBooks s t) (n : Nat) : (t.chan n).state = (s.chan n).state := congrArg Dues.state (h.dues n)

theorem Kept.same (hs : Kept l s) (h : SameBooks s t) : Kept l t := by
  refine ⟨hs.owing.same h, fun n c hc => ?_, fun h0 n => ?_, fun i => ?_, fun n hn => ?_⟩
  · rw [h.state]
    exact hs.idle n c (by rwa [← h.due])
  · rw [h.replies]
    exact hs.discharged (by rwa [← h.state]) n
  · rw [h.channels]
    exact hs.client i
  · rw [h.state]
    exact hs.closing n (by rwa [← h.replies])

theorem Kept.hand (hs : Kept (ch :: l) s) (r : Reply) : Kept l (s.hand ch r) := hs.after (core_hand ..) (hs.owing.hand r)

theorem Kept.reply (hs : Kept (ch :: l) s) (k : Kind) (tag : ReqTag) (st : Status) : Kept l (s.reply ch k tag st) := hs.hand _

theorem Kept.finish (hs : Kept l s) (w : Nat) : Kept l (s.finish w) := hs.after (core_finish ..) (hs.owing.finish w)

/-- A claim of an ACTIVE channel begins to wait. -/
theorem Kept.waited (hs : Kept (ch :: l) s) (ha : (s.chan ch).state = .active) (hd : t.channels = s.channels)
    (hc : s.dueOn c = none) (hw : ∀ k, t.dueOn k = if k = c then some ch else s.dueOn k)
    (hr : t.teardownReplies = s.teardownReplies) (hch : ∀ i, (t.session i).channel = (s.session i).channel) : Kept l t := by
  have hchan (n : Nat) : t.chan n = s.chan n := by rw [State.chan, State.chan, hd]
  refine ⟨hs.owing.waited (dues_of_channels hd) hc hw hr, fun n k hk => ?_, fun h0 n => ?_, fun i => ?_, fun n hn => ?_⟩
  · rw [hchan]
    rw [hw] at hk
    split_ifs at hk
    · rwa [← Option.some.inj hk]
    · exact hs.idle n k hk
  · rw [hr]
    exact hs.discharged (by rwa [← hchan]) n
  · rw [hch]
    exact hs.client i
  · rw [hchan]
    exact hs.closing n (by rwa [← hr])

/-! ### Claims granted and made to wait by a request (R50, R51, R57) -/

theorem sameBooks_refl (s : State) : SameBooks s s := .of_tables (fun _ => rfl) rfl rfl rfl

theorem sameBooks_renew (s : State) (i : Nat) : SameBooks s (s.renew i) := by
  unfold State.renew State.modOpen
  split
  · rename_i h
    exact sameBooks_setSession (by simp [SessionRec.channel, h])
  exacts [sameBooks_refl s, sameBooks_refl s]

theorem sameBooks_hold (hc : s.isWaiting c = false) (w : Nat) (m : Mode) : SameBooks s (s.hold c w m) := by
  refine ⟨dues_of_channels (by simp), fun k => ?_, by simp, fun i => by simp⟩
  rw [dueOn_ended (s := s) (fun i => by simp) (fun k hk => by rw [State.claimAt_hold, if_neg hk]) (isWaiting_hold s c w m)]
  split_ifs with hk
  · rw [hk, dueOn_of_not_waiting hc]
  · rfl

/-- A claim that did not wait is granted, and the request answered. -/
theorem Kept.granted (hs : Kept (ch :: l) s) (hc : s.isWaiting c = false) (hch : s.claimChannel c = some ch) (k : Kind)
    (tag : ReqTag) (w : Nat) (m : Mode) : Kept l (s.grant k tag c w m) := by
  rw [State.grant, State.handClaim, claimChannel_hold, hch]
  exact (hs.same (sameBooks_hold hc w m)).hand _

theorem channel_allocate (s : State) (c i w : Nat) (st : ClaimState) (j : Nat) :
    ((s.allocate c i w st).session j).channel = (s.session j).channel := by
  rw [State.session_allocate]
  split_ifs with hj
  · rw [hj]
    rcases h : (s.session i).state with _ | o | l <;> simp [SessionRec.channel, h]
  · rfl

theorem dueOn_allocate (s : State) (c i w : Nat) (st : ClaimState) (k : Nat) : (s.allocate c i w st).dueOn k =
    if k = c then if st.wait.isSome then (s.session i).channel else none else s.dueOn k := by
  split_ifs with hk hw
  · rw [dueOn_of_claimAt (by rw [State.claimAt_allocate, if_pos hk]), if_pos hw, channel_allocate]
  · rw [dueOn_of_claimAt (by rw [State.claimAt_allocate, if_pos hk]), if_neg hw]
  · exact dueOn_congr (by rw [State.claimAt_allocate, if_neg hk]) (channel_allocate s c i w st)

theorem sameBooks_allocate_held (hc : s.claimAt c = none) (i w : Nat) (m : Mode) : SameBooks s (s.allocate c i w (.held m)) := by
  refine ⟨dues_of_channels (by simp), fun k => ?_, by simp, channel_allocate s c i w _⟩
  rw [dueOn_allocate]
  split_ifs with hk hw
  · cases hw
  · rw [hk, dueOn_of_none hc]
  · rfl

/-- What a new claim of an OPEN session reads. -/
theorem claimChannel_allocate (s : State) (c i w : Nat) (st : ClaimState) :
    (s.allocate c i w st).claimChannel c = (s.session i).channel := by
  rw [State.claimChannel, State.claimAt_allocate, if_pos rfl, Option.bind_some, channel_allocate]

theorem Kept.acquireAtEntry (hs : Kept [ch] s) (ha : (s.chan ch).state = .active) (hf : s.claimAt c = none)
    (hi : (s.session i).channel = some ch) {limit : BitVec 16} : Kept [] (s.acquireAtEntry c ch tag i w m limit) := by
  unfold State.acquireAtEntry
  split_ifs
  · refine Kept.finish ((hs.same (sameBooks_allocate_held hf i w m)).granted ?_ ?_ ..) w
    · rw [State.isWaiting, State.claimAt_allocate, if_pos rfl]
      rfl
    · rw [claimChannel_allocate, hi]
  · exact (hs.reply ..).finish w
  · refine (hs.waited ha (State.allocate_channels ..) (dueOn_of_none hf) (fun k => ?_) (by simp)
      (channel_allocate s c i w _)).finish w
    rw [dueOn_allocate, hi]
    rfl

theorem sameBooks_place {k : Key} (h : s.place k = some (w, t)) : SameBooks s t := by
  rw [State.place_frame s h]
  exact .of_tables (fun _ => rfl) rfl rfl rfl

theorem Kept.acquireChecked (hs : Kept [ch] s) (ha : (s.chan ch).state = .active) {k : Key} {limit : BitVec 16}
    (hf : s.freeClaims ≠ 0 → s.claimAt c = none) (hi : (s.session i).channel = some ch) :
    Kept [] (s.acquireChecked c ch tag i k m limit) := by
  unfold State.acquireChecked
  split_ifs with h1 h2 h3 h4 h5
  iterate 5 exact hs.reply ..
  split
  · rename_i w t hp
    have hsame := sameBooks_place hp
    refine (hs.same hsame).acquireAtEntry ((hsame.state ch).trans ha) ?_ ((hsame.channels i).trans hi)
    rw [State.place_frame s hp]
    exact hf h4
  · exact hs.reply ..

theorem Kept.renewed (hs : Kept l s) (i : Nat) : Kept l (s.renew i) := hs.same (sameBooks_renew s i)

theorem Kept.acquire (hs : Kept [ch] s) (ha : (s.chan ch).state = .active) {session : SessionHandle} {domain mode : BitVec 8}
    {limit : BitVec 16} {name : Name} (hf : s.freeClaims ≠ 0 → s.claimAt c = none) :
    Kept [] (s.acquire c ch tag session domain mode limit name) := by
  unfold State.acquire
  split
  · exact hs.reply ..
  · split
    · split
      · exact hs.reply ..
      · exact hs.reply ..
      · rename_i i hc
        have hsame := sameBooks_renew s i
        refine (hs.renewed i).acquireChecked ((hsame.state ch).trans ha) ?_ ((hsame.channels i).trans (checkSession_channel hc))
        rw [State.renew_frame]
        exact hf
    · exact hs.reply ..
    · exact hs.reply ..

/-! ### CONVERT -/

theorem isWaiting_of_held (hb : s.claimAt c = some b) (hst : b.state = .held x) : s.isWaiting c = false := by
  rw [State.isWaiting, hb, Option.bind_some, hst]
  rfl

theorem claimChannel_of_claimAt (hb : s.claimAt c = some b) : s.claimChannel c = (s.session b.session).channel := by
  rw [State.claimChannel, hb, Option.bind_some]

theorem claimChannel_clearNoticed (s : State) (c : Nat) : (s.clearNoticed c).claimChannel c = s.claimChannel c := by
  rw [State.claimChannel, claimAt_eq_of_claims (s.claims_clearNoticed c), State.claimAt_modClaim, if_pos rfl, State.claimChannel]
  cases s.claimAt c <;> simp

theorem isWaiting_clearNoticed (s : State) (c : Nat) : (s.clearNoticed c).isWaiting c = s.isWaiting c := by
  have h := congrArg (Option.bind · ClaimState.wait) (state_clearNoticed s c c)
  simp only [Option.bind_map] at h
  exact congrArg Option.isSome h

theorem Kept.converting (hs : Kept (ch :: l) s) (ha : (s.chan ch).state = .active) (hb : s.claimAt c = some b)
    (hst : b.state = .held x) (hch : (s.session b.session).channel = some ch) (wait : Wait) :
    Kept l ((s.modClaim c fun y => { y with state := .converting x m wait }).modEntry w fun e =>
      { e with converts := e.converts ++ [c] }) := by
  refine hs.waited ha (by simp) (dueOn_of_not_waiting (isWaiting_of_held hb hst)) (fun k => ?_) (by simp) fun i => by simp
  split_ifs with hk
  · rw [dueOn_of_claimAt (b := { b with state := .converting x m wait }) (by simp [State.claimAt_modClaim, hk, hb])]
    simpa [ClaimState.wait] using hch
  · exact dueOn_congr (by simp [State.claimAt_modClaim, hk]) fun i => by simp

theorem Kept.upgrade (hs : Kept [ch] s) (ha : (s.chan ch).state = .active) (hb : s.claimAt c = some b) (hst : b.state = .held x)
    (hch : (s.session b.session).channel = some ch) {limit : BitVec 16} : Kept [] (s.upgrade ch tag c w x m limit) := by
  unfold State.upgrade
  dsimp only
  have hcore : Core s (if m = .exclusive then s.failConversions w else s) := by
    split
    exacts [core_failConversions .., .refl]
  have hu : Kept [ch] (if m = .exclusive then s.failConversions w else s) := hs.after hcore (by
    split
    exacts [hs.owing.failConversions w, hs.owing])
  have hub : (if m = .exclusive then s.failConversions w else s).claimAt c = some b := by
    split
    exacts [failConversions_held hb hst, hb]
  have huch := (core_channel hcore b.session).trans hch
  have hua := ((core_frame hcore).1 ch).trans ha
  generalize (if m = .exclusive then s.failConversions w else s) = u at hu hub huch hua
  split_ifs
  · refine Kept.finish ((hu.same (sameBooks_clearNoticed u c)).granted ?_ ?_ ..) w
    · rw [isWaiting_clearNoticed, isWaiting_of_held hub hst]
    · rw [claimChannel_clearNoticed, claimChannel_of_claimAt hub, huch]
  · exact (hu.hand _).finish w
  · exact (hu.converting hua hub hst huch _).finish w

theorem Kept.downgrade (hs : Kept [ch] s) (hb : s.claimAt c = some b) (hst : b.state = .held x) {p i : Bool} {v : ValueWord} :
    Kept [] (s.downgrade ch tag c w x m p i v) := by
  unfold State.downgrade
  dsimp only
  have hheld : SameBooks s (s.modClaim c fun y => { y with state := .held m }) := by
    refine sameBooks_modClaim s c _ fun y hy => ⟨rfl, ?_⟩
    obtain rfl := Option.some.inj (hy.symm.trans hb)
    simp [hst, ClaimState.wait]
  have hcleared := hheld.trans (sameBooks_clearNoticed _ c)
  split_ifs
  · exact ((hs.same (hcleared.trans (sameBooks_modEntry ..))).hand _).finish w
  · exact ((hs.same hcleared).hand _).finish w

theorem Kept.convertChecked (hs : Kept [ch] s) (ha : (s.chan ch).state = .active) (hb : s.claimAt c = some b)
    (hch : (s.session b.session).channel = some ch) {p i : Bool} {limit : BitVec 16} {v : ValueWord} :
    Kept [] (s.convertChecked ch tag c b m p i limit v) := by
  have hrefused (st : Status) : Kept [] (s.refuseConvert ch tag c st) := hs.hand _
  unfold State.convertChecked
  split
  · exact hs.reply ..
  · split
    · rename_i held hst
      unfold State.convertHeld
      split
      · exact hrefused _
      · split
        · exact hrefused _
        · exact hs.downgrade hb hst
      · split_ifs
        iterate 3 exact hrefused _
        exact hs.upgrade ha hb hst hch
    · exact hrefused _
    · exact hrefused _

theorem Kept.convert (hs : Kept [ch] s) (ha : (s.chan ch).state = .active) {claim : ClaimHandle} {mode : BitVec 8} {p i : Bool}
    {limit : BitVec 16} {v : ValueWord} : Kept [] (s.convert ch tag claim mode p i limit v) := by
  unfold State.convert
  split
  · exact hs.reply ..
  · split
    · split
      · exact hs.reply ..
      · split
        · rename_i c hc
          obtain ⟨b, hb, hch⟩ := checkClaim_some hc
          rw [hb]
          have hsame := sameBooks_renew s b.session
          refine (hs.renewed _).convertChecked ((hsame.state ch).trans ha) ?_ ((hsame.channels _).trans hch)
          rw [State.renew_frame]
          exact hb
        · exact hs.reply ..
    · exact hs.reply ..

/-! ### RELEASE, CANCEL and CHECK_FENCE -/

theorem Owing.releaseChecked (hs : Owing [ch] s) (hb : s.claimAt c = some b) {p i : Bool} {v : ValueWord} :
    Owing [] (s.releaseChecked ch tag c b p i v) := by
  have hrefused (st : Status) : Owing [] (s.reply ch .release tag st) := hs.hand _
  unfold State.releaseChecked
  split
  · exact hrefused _
  · rename_i hst
    split
    · exact hrefused _
    · have hfreed := hs.same (sameBooks_freeClaim (isWaiting_of_held hb hst))
      dsimp only
      split
      · exact ((hfreed.same (sameBooks_modEntry ..)).hand _).finish _
      · exact (hfreed.hand _).finish _
  · rename_i hst
    split
    · exact hrefused _
    · have hended := hs.answeredReverted hb hst .cancelled true
      have hidle : ((s.answer c .cancelled true).endConversion c).isWaiting c = false :=
        isWaiting_endConversion (b := b) (by rwa [claimAt_answer]) hst
      exact ((hended.same (sameBooks_freeClaim hidle)).hand _).finish _

theorem Kept.release (hs : Kept [ch] s) {claim : ClaimHandle} {p i : Bool} {v : ValueWord} :
    Kept [] (s.release ch tag claim p i v) := by
  unfold State.release
  split
  · exact hs.reply ..
  · split
    · exact hs.reply ..
    · split
      · split
        · rename_i b hb
          have hr := hs.renewed b.session
          refine hr.after core_releaseChecked (hr.owing.releaseChecked ?_)
          rw [State.renew_frame]
          exact hb
        · exact hs.reply ..
      · exact hs.reply ..

theorem Owing.cancelChecked (hs : Owing [ch] s) {k : Key} : Owing [] (s.cancelChecked ch tag i k) := by
  unfold State.cancelChecked
  split
  · split
    · split
      · exact (hs.hand _).finish _
      · exact ((hs.endWait _ _).hand _).finish _
    · exact (hs.hand _).finish _
  · exact hs.hand _

theorem Kept.cancel (hs : Kept [ch] s) {session : SessionHandle} {domain : BitVec 8} {name : Name} :
    Kept [] (s.cancel ch tag session domain name) := by
  unfold State.cancel
  split
  · exact hs.reply ..
  · split
    · split
      · exact hs.reply ..
      · exact hs.reply ..
      · exact (hs.renewed _).after core_cancelChecked (hs.renewed _).owing.cancelChecked
    · exact hs.reply ..

theorem Owing.checkFenceChecked (hs : Owing [ch] s) {k : Key} {serial : Serial} :
    Owing [] (s.checkFenceChecked ch tag k serial) := by
  unfold State.checkFenceChecked
  split
  · exact hs.hand _
  · exact hs.hand _

theorem Kept.checkFence (hs : Kept [ch] s) {session : SessionHandle} {domain : BitVec 8} {name : Name} {serial : Serial} :
    Kept [] (s.checkFence ch tag session domain name serial) := by
  unfold State.checkFence
  split
  · exact hs.reply ..
  · split
    · split
      · exact hs.after core_checkFenceChecked hs.owing.checkFenceChecked
      · split
        · exact hs.reply ..
        · exact hs.reply ..
        · exact (hs.renewed _).after core_checkFenceChecked (hs.renewed _).owing.checkFenceChecked
    · exact hs.reply ..

end

end Sys2Proof.Machine
end

section
/-! PROOFS. The reservations through sessions opened, closed and lapsed (R76, R82, R86), faults (R136, R154), teardowns (R139, R158)
and the other management requests. -/

namespace Sys2Proof.Machine

section
variable {s t : State} {n ch c i w : Nat} {b : Claim} {l l' : List Nat} {tag : ReqTag} {x : Channel}

/-! ### Sessions -/

/-- A session without claims has none in the records. -/
theorem AllPlaced.session_ne (hp : AllPlaced s) (hi : (s.session i).claims = []) (hb : s.claimAt c = some b) : b.session ≠ i := by
  rintro rfl
  have hmem := hp.owner c _ (spot_of_claimAt (s := s) hb) id
  rw [b.spot_session, hi] at hmem
  cases hmem

/-- The record of a session that has no claim changes. -/
theorem Kept.setSession (hs : Kept l s) (hp : AllPlaced s) (hi : (s.session i).claims = []) {r : SessionRec}
    (h0 : r.channel ≠ some 0) : Kept l (s.setSession i r) := by
  have hdue (k : Nat) : (s.setSession i r).dueOn k = s.dueOn k := by
    rcases hb : s.claimAt k with _ | b
    · rw [dueOn_of_none (s := s) hb, dueOn_of_none (s := s.setSession i r) hb]
    · rw [dueOn_of_claimAt (s := s) hb, dueOn_of_claimAt (s := s.setSession i r) hb, State.session_setSession,
        if_neg (hp.session_ne hi hb)]
  refine ⟨hs.owing.of_due (fun _ => rfl) (fun _ _ k => by rw [hdue]) rfl, fun n k hk => hs.idle n k (by rwa [← hdue]),
    hs.discharged, fun j => ?_, hs.closing⟩
  rw [State.session_setSession]
  split_ifs
  exacts [h0, hs.client j]

theorem Kept.freeSession (hs : Kept l s) (hp : AllPlaced s) (hi : (s.session i).claims = []) : Kept l (s.freeSession i) :=
  hs.setSession hp hi (by simp [SessionRec.channel])

theorem Kept.openSession (hs : Kept [ch] s) (hp : AllPlaced s) {p : BitVec 16} {v : Bool} :
    Kept [] (s.openSession ch tag p v) := by
  unfold State.openSession
  split_ifs with h0
  iterate 3 exact hs.reply ..
  split
  · rename_i i hi
    exact (hs.setSession hp (claims_of_free (searchFreeSession_some hi).2) (by simpa [SessionRec.channel] using h0)).hand _
  · exact hs.reply ..

theorem Owing.withdrawnFor (hs : Owing l s) (o : OpenSession) : Owing l (s.withdrawnFor o) :=
  Owing.foldl (fun _ c h => h.withdrawPart c _ _) hs _

theorem Kept.close (hs : Kept l s) (hp : AllPlaced s) (i : Nat) : Kept l (s.close i) := by
  rcases hi : (s.session i).state with _ | o | d
  · rw [State.close, hi]
    exact hs
  · have hcore := core_withdrawnFor s o
    have hplaced : AllPlaced (s.withdrawnFor o) := hp.after hcore
    rw [close_opened hi]
    refine (hs.after hcore (hs.owing.withdrawnFor o)).freeSession hplaced (hplaced.claims_eq_nil fun c hc => ?_)
    exact fold_none _ _ _ _ c (SessionRec.claims_of_opened hi ▸ core_claims_subset hcore i hc)
  · have hcore : Core s (s.dropNotices d.channel (Notice.lapseOf i)) := .one (.drop ..)
    rw [close_lapsed hi]
    exact (hs.same (sameBooks_dropNotices ..)).freeSession (hp.after hcore) (claims_of_lapsed hi)

theorem Kept.closeSession (hs : Kept [ch] s) (hp : AllPlaced s) {session : SessionHandle} :
    Kept [] (s.closeSession ch tag session) := by
  unfold State.closeSession
  split
  · exact hs.reply ..
  · split
    · exact hs.reply ..
    · exact (hs.close hp _).reply ..
    · exact (hs.close hp _).reply ..

theorem Kept.keepalive (hs : Kept [ch] s) {session : SessionHandle} : Kept [] (s.keepalive ch tag session) := by
  unfold State.keepalive
  split
  · exact hs.reply ..
  · split
    · exact hs.reply ..
    · exact hs.reply ..
    · exact (hs.renewed _).hand _

theorem Kept.lapse (hs : Kept l s) (i : Nat) (r : LapseReason) : Kept l (s.lapse i r) := by
  rcases hi : (s.session i).state with _ | o | d
  · rw [State.lapse, hi]
    exact hs
  · have hlapsed := hs.same (sameBooks_setSession (i := i) (x := ⟨(s.session i).tag, .lapsed ⟨o.channel, r, false⟩⟩)
      (by simp [SessionRec.channel, hi]))
    refine hlapsed.after (core_lapse r hi) ?_
    rw [State.lapse, hi]
    exact (Owing.foldl (fun _ c h => h.withdrawPart c _ _) hlapsed.owing _).raise ..
  · rw [State.lapse, hi]
    exact hs

theorem Kept.evictSession (hs : Kept [ch] s) {session : SessionHandle} : Kept [] (s.evictSession ch tag session) := by
  unfold State.evictSession
  split
  · exact hs.reply ..
  · split
    · exact hs.reply ..
    · exact hs.reply ..
    · exact (hs.lapse _ _).reply ..

/-! ### Channel records -/

theorem waiters_setChan (s : State) (ch : Nat) (x : Channel) (n : Nat) : (s.setChan ch x).waiters n = s.waiters n :=
  waiters_congr (dueOn_of_tables rfl rfl) n

/-- A channel leaves ACTIVE, and what was still to be given on it is not given. -/
theorem Owing.stopped (hs : Owing l s) (hx : x.state ≠ .active) (h0 : x.owed = 0) (hl : ∀ n, n ≠ ch → l'.count n = l.count n) :
    Owing l' (s.setChan ch x) := by
  refine ⟨fun n hn => ?_, fun n hn => ?_, fun n hn => ?_⟩ <;> rw [dues_setChan] at hn ⊢ <;> split_ifs at hn ⊢ with h
  · exact absurd hn hx
  · rw [waiters_setChan, hl n h]
    exact hs.owed n hn
  · exact absurd hn hx
  · exact hs.fits n hn
  · exact h0
  · exact hs.quiet n hn

/-- The record of a channel that is not ACTIVE and stays so changes. -/
theorem Kept.stays (hs : Kept l s) (hch : (s.chan ch).state ≠ .active) (hx : x.state ≠ .active) (h0 : x.owed = 0)
    (hc : s.teardownReplies.get ch ≠ none → x.state = .closing) : Kept l (s.setChan ch x) := by
  refine ⟨hs.owing.stopped hx h0 fun _ _ => rfl, fun n k hk => ?_, fun hn => hs.discharged fun ha => hn ?_, hs.client,
    fun n hn => ?_⟩
  · have ha := hs.idle n k hk
    rw [State.chan_setChan, if_neg fun h : n = ch => hch (h ▸ ha), ha]
  · rw [State.chan_setChan, if_neg fun h : 0 = ch => hch (h ▸ ha), ha]
  · rw [State.chan_setChan]
    split_ifs with h
    exacts [hc (h ▸ hn), hs.closing n hn]

/-- The record of an ACTIVE channel changes with the entries to be taken and the replies still to be given. -/
theorem Kept.recounted (hs : Kept l s) (ha : (s.chan ch).state = .active) (hx : x.state = .active)
    (ho : x.owed + (s.chan ch).fetched + l.count ch = (s.chan ch).owed + x.fetched + l'.count ch)
    (hl : ∀ n, n ≠ ch → l'.count n = l.count n) (hf : x.written + x.owed < x.rplSize) : Kept l' (s.setChan ch x) := by
  have hstate (n : Nat) : ((s.setChan ch x).chan n).state = (s.chan n).state := by
    rw [State.chan_setChan]
    split_ifs with h
    · rw [hx, h, ha]
    · rfl
  have howed : (s.chan ch).owed = (s.waiters ch).card + s.repliesDue ch + (s.chan ch).fetched + l.count ch := hs.owing.owed ch ha
  refine ⟨⟨fun n hn => ?_, fun n hn => ?_, fun n hn => ?_⟩, fun n k hk => ?_, fun hn => hs.discharged ?_, hs.client, fun n hn => ?_⟩
  · rw [dues_setChan] at hn ⊢
    rw [waiters_setChan]
    split_ifs at hn ⊢ with h
    · subst h
      show x.owed = (s.waiters n).card + s.repliesDue n + x.fetched + l'.count n
      omega
    · rw [hl n h]
      exact hs.owing.owed n hn
  · rw [dues_setChan] at hn ⊢
    split_ifs at hn ⊢
    exacts [hf, hs.owing.fits n hn]
  · rw [dues_setChan] at hn ⊢
    split_ifs at hn ⊢
    exacts [absurd hx hn, hs.owing.quiet n hn]
  · rw [hstate]
    exact hs.idle n k hk
  · rwa [← hstate]
  · rw [hstate]
    exact hs.closing n hn

/-- A channel becomes ACTIVE, with nothing owed, fetched or written. -/
theorem Kept.started (hs : Kept l s) (hch : (s.chan ch).state ≠ .active) (hc : (s.chan ch).state ≠ .closing)
    (hx : x.dues = ⟨.active, 0, 0, 0, x.rplSize⟩) (hsize : 0 < x.rplSize) (hl : l.count ch = 0) : Kept l (s.setChan ch x) := by
  have hwaiters : s.waiters ch = ∅ :=
    Finset.eq_empty_iff_forall_notMem.mpr fun k hk => hch (hs.idle ch k (mem_waiters.mp hk))
  have hreplies : s.repliesDue ch = 0 := by
    rw [State.repliesDue]
    split_ifs with h0
    · exact Table.count_empty_of_get _ _ fun k => by rw [hs.discharged (h0 ▸ hch) k]; rfl
    · rfl
  have hactive : x.state = .active := congrArg Dues.state hx
  refine ⟨⟨fun n hn => ?_, fun n hn => ?_, fun n hn => ?_⟩, fun n k hk => ?_, fun hn => hs.discharged fun h0 => hn ?_, hs.client,
    fun n hn => ?_⟩
  · rw [dues_setChan] at hn ⊢
    rw [waiters_setChan]
    split_ifs at hn ⊢ with h
    · subst h
      rw [hx, hwaiters, show (s.setChan n x).repliesDue n = 0 from hreplies, hl]
      rfl
    · exact hs.owing.owed n hn
  · rw [dues_setChan] at hn ⊢
    split_ifs at hn ⊢
    · rw [hx]
      exact hsize
    · exact hs.owing.fits n hn
  · rw [dues_setChan] at hn ⊢
    split_ifs at hn ⊢
    exacts [absurd hactive hn, hs.owing.quiet n hn]
  · rw [State.chan_setChan]
    split_ifs
    exacts [hactive, hs.idle n k hk]
  · rw [State.chan_setChan]
    split_ifs
    exacts [hactive, h0]
  · have hclosing := hs.closing n hn
    rw [State.chan_setChan, if_neg fun h : n = ch => hc (h ▸ hclosing), hclosing]

/-! ### Faults (R136, R154) -/

theorem SameBooks.foldl {α : Type} {f : State → α → State} (hf : ∀ u a, SameBooks u (f u a)) (as : List α) (s : State) :
    SameBooks s (as.foldl f s) := by
  induction as generalizing s with
  | nil => exact sameBooks_refl s
  | cons a as ih => exact (hf s a).trans (ih _)

theorem sameBooks_clearFlags (s : State) (ch : Nat) : SameBooks s (s.clearFlags ch) := by
  unfold State.clearFlags
  refine (SameBooks.foldl (fun u c => ?_) _ s).trans (SameBooks.foldl (fun u i => ?_) _ _)
  · exact sameBooks_modClaim u c _ fun _ _ => ⟨rfl, rfl⟩
  · split
    · rename_i h
      exact sameBooks_setSession (by simp [SessionRec.channel, h])
    exacts [sameBooks_refl u, sameBooks_refl u]

theorem sameBooks_sendInterrupt (s : State) (ch : Nat) : SameBooks s (s.sendInterrupt ch) := by
  unfold State.sendInterrupt
  split
  exacts [.of_tables (fun _ => rfl) rfl rfl rfl, sameBooks_refl s]

theorem sameBooks_disarm (s : State) (ch : Nat) : SameBooks s (s.disarm ch) := sameBooks_setChan rfl

/-- The interrupt of a channel sent and its armed flag cleared, if it is armed (R135). -/
theorem sameBooks_interrupt (s : State) (ch : Nat) :
    SameBooks s (if (s.chan ch).armed then (s.sendInterrupt ch).disarm ch else s) := by
  split_ifs
  exacts [(sameBooks_sendInterrupt s ch).trans (sameBooks_disarm ..), sameBooks_refl s]

/-- The state of a faulted client channel before its waits are withdrawn (R136). -/
def State.unflagged (s : State) (ch : Nat) (cause : Cause) : State :=
  (s.setChan ch ((s.chan ch).faulted cause)).clearFlags ch

/-- The waits of a faulted client channel (R136). -/
def State.waitsOf (s : State) (ch : Nat) : List Nat := (s.claimsOf ch).filter s.isWaiting

/-- The state of a faulted client channel whose waits have been withdrawn (R136). -/
def State.unwaiting (s : State) (ch : Nat) (cause : Cause) : State :=
  (s.unflagged ch cause).withdrawAll [] ((s.unflagged ch cause).waitsOf ch) State.withdrawWait

def State.faultTold (s : State) (ch : Nat) (cause : Cause) : State :=
  (s.unwaiting ch cause).raise 0 (.channelFaulted ch cause s.now)

theorem faultClient_eq (s : State) (ch : Nat) (cause : Cause) : s.faultClient ch cause =
    if ((s.faultTold ch cause).chan ch).armed then ((s.faultTold ch cause).sendInterrupt ch).disarm ch
    else s.faultTold ch cause := rfl

theorem core_faultTold (s : State) (ch : Nat) (cause : Cause) : Core (s.unflagged ch cause) (s.faultTold ch cause) :=
  (core_withdrawAll _ _ _ core_withdrawWait).trans (core_raise ..)

/-- The claims in the lists of a channel's sessions are of that channel. -/
theorem AllPlaced.channel_of_claimsOf (hp : AllPlaced s) (hc : c ∈ s.claimsOf ch) (hb : s.claimAt c = some b) :
    (s.session b.session).channel = some ch := by
  obtain ⟨i, hi, hmem⟩ := mem_claimsOf.mp hc
  obtain ⟨p, hp', rfl⟩ := hp.owned i c hmem
  obtain rfl := Option.some.inj ((spot_of_claimAt (s := s) hb).symm.trans hp')
  exact hi

theorem AllPlaced.mem_claimsOf (hp : AllPlaced s) (hb : s.claimAt c = some b) (hch : (s.session b.session).channel = some ch) :
    c ∈ s.claimsOf ch :=
  Sys2Proof.Machine.mem_claimsOf.mpr ⟨b.session, hch, hp.owner c _ (spot_of_claimAt (s := s) hb) id⟩

theorem AllPlaced.stopped (hp : AllPlaced s) (hch : (s.chan ch).state ≠ .active) {claims : List Nat}
    (hsub : claims ⊆ s.claimsOf ch) : Stopped ch claims s :=
  ⟨hch, fun _ hc _ hb => hp.channel_of_claimsOf (hsub hc) hb⟩

theorem core_not_waiting {u v : State} (h : Core u v) (hu : u.isWaiting c = false) : v.isWaiting c = false := by
  rw [State.isWaiting] at hu ⊢
  rcases hb : v.claimAt c with _ | b
  · rfl
  · obtain ⟨b₀, hb₀, -, -, hstate | hstate⟩ := core_origin h hb
    · rw [hb₀] at hu
      simpa [hstate] using hu
    · simp [hstate]

theorem isWaiting_withdrawWait (s : State) (c : Nat) : (s.withdrawWait c).isWaiting c = false := by
  unfold State.withdrawWait
  split
  · rename_i b hb
    split
    · exact isWaiting_freeClaim s c
    · exact isWaiting_endConversion hb ‹_›
    · exact isWaiting_of_held hb ‹_›
  · rename_i hb
    rw [State.isWaiting, hb]
    rfl

theorem faultTold_idle_of_waits {cause : Cause} (hc : c ∈ (s.unflagged ch cause).waitsOf ch) :
    (s.faultTold ch cause).isWaiting c = false := by
  unfold State.faultTold State.unwaiting
  refine core_not_waiting (core_raise ..) ?_
  exact withdrawAll_reaches (Q := fun u => u.isWaiting c = false) (fun _ _ h hu => core_not_waiting h hu) core_withdrawWait
    (fun u => isWaiting_withdrawWait u c) (fun u hu => by rw [State.isWaiting, hu]; rfl) hc _

/-- No reply is due on a client channel that has entered FAULTED (R136). -/
theorem faultTold_idle {cause : Cause} (hp : AllPlaced (s.unflagged ch cause)) (c : Nat) :
    (s.faultTold ch cause).dueOn c ≠ some ch := by
  intro hdue
  obtain ⟨b₀, hb₀, hwait, hch⟩ := dueOn_eq_some.mp (core_dueOn (core_faultTold s ch cause) hdue)
  have hmem : c ∈ (s.unflagged ch cause).waitsOf ch :=
    List.mem_filter.mpr ⟨hp.mem_claimsOf hb₀ hch, by rw [State.isWaiting, hb₀]; exact hwait⟩
  rw [dueOn_of_not_waiting (faultTold_idle_of_waits hmem)] at hdue
  cases hdue

theorem Kept.faultClient (hs : Kept l s) (hp : AllPlaced s) (ha : (s.chan ch).state = .active) (h0 : ch ≠ 0)
    (hl : ∀ n, n ≠ ch → l.count n = 0) (cause : Cause) : Kept [] (s.faultClient ch cause) := by
  have hplaced : AllPlaced (s.unflagged ch cause) := (hp.setChan ch _).after (core_clearFlags ..)
  have hflags : SameBooks (s.setChan ch ((s.chan ch).faulted cause)) (s.unflagged ch cause) := sameBooks_clearFlags ..
  have hleft : Owing [] (s.setChan ch ((s.chan ch).faulted cause)) :=
    hs.owing.stopped (by simp [Channel.faulted]) rfl fun n hn => (hl n hn).symm
  have hstate (n : Nat) : ((s.unflagged ch cause).chan n).state = if n = ch then .faulted else (s.chan n).state := by
    rw [hflags.state, State.chan_setChan]
    split_ifs <;> rfl
  have hstopped : Stopped ch ((s.unflagged ch cause).waitsOf ch) (s.unflagged ch cause) :=
    hplaced.stopped (by rw [hstate, if_pos rfl]; simp) (List.filter_subset_self _)
  have htold : Owing [] (s.faultTold ch cause) :=
    ((hleft.same hflags).withdrawAll hstopped core_withdrawWait fun _ _ hk h hu => hu.withdrawWait h hk).raise ..
  have hcore := core_faultTold s ch cause
  have hreplies : (s.faultTold ch cause).teardownReplies = s.teardownReplies := (core_replies hcore).trans hflags.replies
  have hstates (n : Nat) : ((s.faultTold ch cause).chan n).state = if n = ch then .faulted else (s.chan n).state :=
    ((core_frame hcore).1 n).trans (hstate n)
  rw [faultClient_eq]
  refine Kept.same ⟨htold, fun n c hc => ?_, fun hn n => ?_, fun i => ?_, fun n hn => ?_⟩ (sameBooks_interrupt ..)
  · rw [hstates, if_neg fun h : n = ch => faultTold_idle hplaced c (hc.trans (congrArg some h))]
    have hdue : s.dueOn c = some n := (hflags.due c).symm.trans (core_dueOn hcore hc)
    exact hs.idle n c hdue
  · rw [hreplies]
    rw [hstates, if_neg h0.symm] at hn
    exact hs.discharged hn n
  · rw [core_channel hcore, hflags.channels]
    exact hs.client i
  · rw [hreplies] at hn
    have hclosing := hs.closing n hn
    have hne : n ≠ ch := by
      rintro rfl
      rw [ha] at hclosing
      cases hclosing
    rw [hstates, if_neg hne, hclosing]

theorem Kept.faultManagement (hs : Kept l s) (hl : ∀ n, n ≠ 0 → l.count n = 0) (cause : Cause) :
    Kept [] (s.faultManagement cause) := by
  have hleft : Owing [] (s.setChan 0 ((s.chan 0).faulted cause)) :=
    hs.owing.stopped (by simp [Channel.faulted]) rfl fun n hn => (hl n hn).symm
  have hstate (n : Nat) (hn : n ≠ 0) : ((s.setChan 0 ((s.chan 0).faulted cause)).chan n).state = (s.chan n).state := by
    rw [State.chan_setChan, if_neg hn]
  have hdischarged : Kept [] { s.setChan 0 ((s.chan 0).faulted cause) with teardownReplies := Table.empty } := by
    refine ⟨hleft.congr (fun _ => rfl) fun n hn => ?_, fun n c hc => ?_, fun _ n => Table.get_empty n, hs.client,
      fun n hn => absurd (Table.get_empty n) hn⟩
    · have h0 : n ≠ 0 := by
        rintro rfl
        rw [dues_setChan, if_pos rfl] at hn
        cases hn
      rw [State.repliesDue, State.repliesDue, if_neg h0, if_neg h0]
      rfl
    · have hdue : s.dueOn c = some n := hc
      obtain ⟨b, -, -, hch⟩ := dueOn_eq_some.mp hdue
      have h0 : n ≠ 0 := by
        rintro rfl
        exact hs.client _ hch
      exact (hstate n h0).trans (hs.idle n c hdue)
  exact hdischarged.same ((sameBooks_sendInterrupt ..).trans (sameBooks_disarm ..))

/-- An ACTIVE channel that enters FAULTED gives none of the replies that were still to be given on it. -/
theorem Kept.fault (hs : Kept l s) (hp : AllPlaced s) (ha : (s.chan ch).state = .active) (hl : ∀ n, n ≠ ch → l.count n = 0)
    (cause : Cause) : Kept [] (s.fault ch cause) := by
  unfold State.fault
  split_ifs with h0
  · exact hs.faultManagement (h0 ▸ hl) cause
  · exact hs.faultClient hp ha h0 hl cause

/-! ### Teardowns (R139, R158) -/

/-- A pending teardown reply is taken up or let go. -/
theorem Kept.replies (hs : Kept l s) {x : Table (Option ReqTag) none}
    (hcount : x.count (·.isSome) + l'.count 0 = s.teardownReplies.count (·.isSome) + l.count 0)
    (hl : ∀ n, n ≠ 0 → l'.count n = l.count n) (hd : (s.chan 0).state ≠ .active → ∀ n, x.get n = none)
    (hc : ∀ n, x.get n ≠ none → (s.chan n).state = .closing) : Kept l' { s with teardownReplies := x } := by
  refine ⟨hs.owing.congr (fun _ => rfl) fun n _ => ?_, hs.idle, hd, hs.client, hc⟩
  rw [waiters_congr (t := { s with teardownReplies := x }) (s := s) (dueOn_of_tables rfl rfl), State.repliesDue, State.repliesDue]
  split_ifs with h0
  · subst h0
    show _ + x.count _ + _ = _
    omega
  · rw [hl n h0]

theorem Kept.endTeardownIfDrained (hs : Kept l s) : Kept l (s.endTeardownIfDrained ch) := by
  unfold State.endTeardownIfDrained
  split_ifs with h
  · obtain ⟨hclosing, -⟩ := h
    have hna : (s.chan ch).state ≠ .active := by simp [hclosing]
    have hoff : Channel.reset.state ≠ .active := by simp [Channel.reset]
    unfold State.endTeardown
    dsimp only
    split
    · rename_i tag htag
      have htag : s.teardownReplies.get ch = some tag := htag
      have hcount := s.teardownReplies.count_set (·.isSome) rfl ch none
      rw [htag] at hcount
      have hgiven : Kept (0 :: l) { s with teardownReplies := s.teardownReplies.set ch none } := by
        refine hs.replies ?_ (fun n hn => List.count_cons_of_ne hn.symm) (fun h0 n => ?_) fun n hn => ?_
        · rw [List.count_cons_self]
          simp at hcount
          omega
        · rw [hs.discharged h0 ch] at htag
          cases htag
        · rw [Table.get_set] at hn
          split_ifs at hn
          exacts [absurd rfl hn, hs.closing n hn]
      exact Kept.reply (hgiven.stays hna hoff rfl fun hn => absurd (by simp) hn) ..
    · rename_i hnone
      exact hs.stays hna hoff rfl fun hn => absurd hnone hn
  · exact hs

theorem session_freeSessions (is : List Nat) (j : Nat) :
    ((is.foldl State.freeSession s).session j).channel = if j ∈ is then none else (s.session j).channel := by
  induction is generalizing s with
  | nil => rfl
  | cons i is ih =>
    rw [List.foldl_cons, ih, State.freeSession, State.session_setSession]
    by_cases hj : j = i
    · simp [hj, SessionRec.channel]
    · simp [hj]

theorem freeSessions_frame (is : List Nat) :
    is.foldl State.freeSession s = { s with sessions := (is.foldl State.freeSession s).sessions } := by
  induction is generalizing s with
  | nil => rfl
  | cons i is ih =>
    rw [List.foldl_cons, ih]
    rfl

theorem chan_freeSessions (is : List Nat) (n : Nat) : (is.foldl State.freeSession s).chan n = s.chan n := by
  rw [freeSessions_frame]
  rfl

theorem dues_freeSessions (is : List Nat) (n : Nat) : (is.foldl State.freeSession s).dues n = s.dues n := by
  rw [State.dues, chan_freeSessions, State.dues]

theorem claimAt_freeSessions (is : List Nat) (c : Nat) : (is.foldl State.freeSession s).claimAt c = s.claimAt c := by
  rw [freeSessions_frame]
  rfl

theorem replies_freeSessions (is : List Nat) : (is.foldl State.freeSession s).teardownReplies = s.teardownReplies := by
  rw [freeSessions_frame]

/-- The replies due once the sessions of channel `ch` are freed: those on other channels. -/
theorem dueOn_freeSessions : ((s.sessionsOf ch).foldl State.freeSession s).dueOn c = some n ↔ s.dueOn c = some n ∧ n ≠ ch := by
  rw [dueOn_eq_some, dueOn_eq_some, claimAt_freeSessions]
  constructor
  · rintro ⟨b, hb, hwait, hch⟩
    rw [session_freeSessions] at hch
    split_ifs at hch with hmem
    refine ⟨⟨b, hb, hwait, hch⟩, ?_⟩
    rintro rfl
    exact hmem (mem_sessionsOf.mpr hch)
  · rintro ⟨⟨b, hb, hwait, hch⟩, hn⟩
    refine ⟨b, hb, hwait, ?_⟩
    rw [session_freeSessions, if_neg, hch]
    rw [mem_sessionsOf, hch]
    exact fun h => hn (Option.some.inj h)

theorem state_closing (s : State) (ch n : Nat) :
    ((s.closing ch).chan n).state = if n = ch then .closing else (s.chan n).state := by
  rw [State.closing, State.chan_setChan]
  split_ifs <;> rfl

theorem state_emptied (s : State) (ch n : Nat) :
    ((s.emptied ch).chan n).state = if n = ch then .closing else (s.chan n).state :=
  ((core_frame (core_emptied s ch)).1 n).trans (state_closing s ch n)

theorem state_beginTeardown (s : State) (ch n : Nat) :
    ((s.beginTeardown ch).chan n).state = if n = ch then .closing else (s.chan n).state := by
  rw [beginTeardown_eq, chan_freeSessions, state_emptied]

theorem replies_emptied (s : State) (ch : Nat) : (s.emptied ch).teardownReplies = s.teardownReplies :=
  core_replies (s := s.closing ch) (core_emptied s ch)

theorem replies_beginTeardown (s : State) (ch : Nat) : (s.beginTeardown ch).teardownReplies = s.teardownReplies := by
  rw [beginTeardown_eq, replies_freeSessions, replies_emptied]

theorem Owing.emptied (hs : Owing l s) (hp : AllPlaced s) : Owing l (s.emptied ch) := by
  have hclosing : Owing l (s.closing ch) := hs.stopped (by simp) rfl fun _ _ => rfl
  have hplaced : AllPlaced (s.closing ch) := hp.setChan ..
  have hstopped : Stopped ch ((s.closing ch).claimsOf ch) (s.closing ch) :=
    hplaced.stopped (by rw [state_closing, if_pos rfl]; simp) (List.Subset.refl _)
  exact hclosing.withdrawAll hstopped (fun _ _ => core_withdraw ..) fun _ _ hk h hu => hu.withdrawSilently h hk true

theorem Kept.beginTeardown (hs : Kept l s) (hp : AllPlaced s) (h0 : ch ≠ 0) : Kept l (s.beginTeardown ch) := by
  have hreplies := replies_beginTeardown s ch
  refine ⟨(hs.owing.emptied (ch := ch) hp).of_due (fun n => ?_) (fun n hn c => ?_) ?_, fun n c hc => ?_, fun hn n => ?_,
    fun i => ?_, fun n hn => ?_⟩
  · rw [beginTeardown_eq, dues_freeSessions]
  · have hne : n ≠ ch := by
      rintro rfl
      have hclosing := state_emptied s n n
      rw [if_pos rfl] at hclosing
      exact absurd (hclosing.symm.trans hn) (by simp)
    rw [beginTeardown_eq, dueOn_freeSessions, and_iff_left hne]
  · rw [hreplies, replies_emptied]
  · rw [beginTeardown_eq, dueOn_freeSessions] at hc
    obtain ⟨hc, hne⟩ := hc
    have hdue : (s.closing ch).dueOn c = some n := core_dueOn (core_emptied s ch) hc
    rw [state_beginTeardown, if_neg hne, hs.idle n c hdue]
  · rw [state_beginTeardown, if_neg h0.symm] at hn
    rw [hreplies, hs.discharged hn]
  · rw [beginTeardown_eq, session_freeSessions]
    split_ifs
    · simp
    · rw [core_channel (core_emptied s ch)]
      exact hs.client i
  · rw [hreplies] at hn
    rw [state_beginTeardown]
    split_ifs
    exacts [rfl, hs.closing n hn]

theorem Kept.teardown (hs : Kept [0] s) (hp : AllPlaced s) (ha : (s.chan 0).state = .active) (h0 : ch ≠ 0)
    (hch : (s.chan ch).state ≠ .closing) : Kept [] (s.teardown ch tag) := by
  have hsame : SameBooks s (s.dropNotices 0 (Notice.faultOf ch)) := sameBooks_dropNotices ..
  have hnone : s.teardownReplies.get ch = none := not_not.mp fun h => hch (hs.closing ch h)
  have hbegun := (hs.same hsame).beginTeardown (hp.after (.one (.drop ..))) h0
  have hclosing := state_beginTeardown (s.dropNotices 0 (Notice.faultOf ch)) ch ch
  have hzero := state_beginTeardown (s.dropNotices 0 (Notice.faultOf ch)) ch 0
  have hreplies : _ = s.teardownReplies := replies_beginTeardown (s.dropNotices 0 (Notice.faultOf ch)) ch
  rw [if_pos rfl] at hclosing
  rw [if_neg h0.symm] at hzero
  unfold State.teardown
  dsimp only
  generalize (s.dropNotices 0 (Notice.faultOf ch)).beginTeardown ch = u at hbegun hclosing hzero hreplies
  have hcount := u.teardownReplies.count_set (·.isSome) rfl ch (some tag)
  rw [show u.teardownReplies.get ch = none from hreplies ▸ hnone] at hcount
  refine Kept.endTeardownIfDrained (hbegun.replies ?_ (fun n hn => ?_) (fun hn => ?_) fun n hn => ?_)
  · simp at hcount ⊢
    omega
  · simp [hn.symm]
  · exact absurd (hzero.trans ((hsame.state 0).trans ha)) hn
  · rw [Table.get_set] at hn
    split_ifs at hn with hne
    exacts [hne ▸ hclosing, hbegun.closing n hn]

theorem Kept.teardownChannel (hs : Kept [ch] s) (hp : AllPlaced s) (ha : (s.chan ch).state = .active) {target : BitVec 8} :
    Kept [] (s.teardownChannel ch tag target) := by
  unfold State.teardownChannel
  split
  · exact hs.reply ..
  · rename_i h0
    obtain rfl := not_not.mp h0
    split
    · rename_i n ht
      obtain ⟨-, hn, -⟩ := targetOf_some ht
      split
      · exact hs.reply ..
      · exact hs.reply ..
      · exact hs.teardown hp ha hn (by simp [*])
      · exact hs.teardown hp ha hn (by simp [*])
    · exact hs.reply ..

end

end Sys2Proof.Machine
end

section
/-! PROOFS. The reservations through the management requests, the registers, the DMA and time, and through every step (R25,
R129). -/

namespace Sys2Proof.Machine

section
variable {s t : State} {n ch c i w : Nat} {b : Claim} {l l' : List Nat} {tag : ReqTag} {x : Channel}

/-! ### Management requests -/

theorem rplSize_pos_of_valid {r : Rings} (h : r.valid = true) : 0 < r.rplSize := by
  refine Nat.pos_of_ne_zero fun h0 => ?_
  have hsize : ringSizeValid r.rplSize = true := by simp_all [Rings.valid]
  rw [h0] at hsize
  exact absurd hsize (by decide)

theorem dues_ringStart (x : Channel) : x.ringStart.dues = ⟨.active, 0, 0, 0, x.ringStart.rplSize⟩ := by
  simp [Channel.dues, Channel.fetched, Channel.written, Channel.ringStart, ringDiff]

theorem Kept.setupChannel (hs : Kept [ch] s) {target v : BitVec 8} {a b : BitVec 16} {x y : HostAddr} {m n : BitVec 16} :
    Kept [] (s.setupChannel ch tag target v a b x y m n) := by
  unfold State.setupChannel
  split
  · exact hs.reply ..
  · rename_i h0
    obtain rfl := not_not.mp h0
    split
    · rename_i k r ht hr
      obtain ⟨-, hk, -⟩ := targetOf_some ht
      split
      iterate 3 exact hs.reply ..
      rename_i hoff
      refine (hs.started (ch := k) (x := (s.chan k).setUp r a.toNat b.toNat) (by simp [hoff]) (by simp [hoff]) (dues_ringStart _)
        (rplSize_pos_of_valid (setupRings_valid hr)) ?_).reply ..
      exact List.count_eq_zero.mpr (by simpa using hk)
    · exact hs.reply ..
    · exact hs.reply ..

theorem Kept.retell (hs : Kept l s) (c : Nat) : Kept l (s.retell c) := by
  refine hs.after (core_retell s c) ?_
  unfold State.retell
  split
  · split
    exacts [hs.owing.tell .., hs.owing]
  · exact hs.owing

theorem Kept.restart (hs : Kept l s) (hch : (s.chan ch).state = .faulted) (hsize : 0 < (s.chan ch).rplSize) (hl : l.count ch = 0) :
    Kept l (s.restart ch) := by
  have hstarted : Kept l (s.setChan ch (s.chan ch).ringStart) :=
    hs.started (by simp [hch]) (by simp [hch]) (dues_ringStart _) hsize hl
  have hfold (cs : List Nat) (u : State) (hu : Kept l u) : Kept l (cs.foldl State.retell u) := by
    induction cs generalizing u with
    | nil => exact hu
    | cons c cs ih => exact ih _ (hu.retell c)
  exact hfold _ _ (hstarted.same (sameBooks_dropNotices ..))

theorem Kept.restartChannel (hs : Kept [ch] s) (hr : ∀ n, n ≠ 0 → (s.chan n).state = .faulted → 0 < (s.chan n).rplSize)
    {target : BitVec 8} : Kept [] (s.restartChannel ch tag target) := by
  unfold State.restartChannel
  split
  · exact hs.reply ..
  · rename_i h0
    obtain rfl := not_not.mp h0
    split
    · rename_i k ht
      obtain ⟨-, hk, -⟩ := targetOf_some ht
      split
      iterate 3 exact hs.reply ..
      rename_i hfaulted
      split_ifs
      · exact hs.reply ..
      · exact (hs.restart hfaulted (hr k hk hfaulted) (List.count_eq_zero.mpr (by simpa using hk))).reply ..
    · exact hs.reply ..

theorem Kept.setAccess (hs : Kept [ch] s) {target domain level : BitVec 8} : Kept [] (s.setAccess ch tag target domain level) := by
  have hset (k d : Nat) (v : Level) : Kept [] (s.setLevel ch k tag d v) := by
    have hstored : Kept [ch] (s.setChan k { s.chan k with access := (s.chan k).access.set d v }) :=
      hs.same (sameBooks_setChan rfl)
    exact hstored.hand _
  unfold State.setAccess
  split
  · exact hs.reply ..
  · split
    · split
      · exact hs.reply ..
      · split
        exacts [hs.reply .., hs.reply .., hset _ _ _, hset _ _ _]
    · exact hs.reply ..
    · exact hs.reply ..

theorem Kept.setLimits (hs : Kept [ch] s) {target : BitVec 8} {a b : BitVec 16} : Kept [] (s.setLimits ch tag target a b) := by
  have hset (k x y : Nat) : Kept [] (s.limit ch k tag x y) := by
    have hstored : Kept [ch] (s.setChan k { s.chan k with sessionLimit := x, claimLimit := y }) :=
      hs.same (sameBooks_setChan rfl)
    unfold State.limit
    split_ifs
    exacts [hs.reply .., hstored.reply ..]
  unfold State.setLimits
  split
  · exact hs.reply ..
  · split
    · split
      · exact hs.reply ..
      · split
        exacts [hs.reply .., hs.reply .., hset _ _ _, hset _ _ _]
    · exact hs.reply ..

theorem Kept.tables (hs : Kept l s) (hd : t.channels = s.channels) (hc : t.claims = s.claims) (hi : t.sessions = s.sessions)
    (hr : t.teardownReplies = s.teardownReplies) : Kept l t :=
  hs.same (.of_tables (dues_of_channels hd) hc hi hr)

theorem Kept.setTick (hs : Kept [ch] s) {p : BitVec 32} : Kept [] (s.setTick ch tag p) := by
  unfold State.setTick
  split_ifs
  · exact hs.reply ..
  · exact hs.reply ..
  · exact Kept.reply (hs.tables (t := { s with requestedPeriod := some p }) rfl rfl rfl rfl) ..

theorem Kept.discardResource (hs : Kept [ch] s) {domain : BitVec 8} {name : Name} :
    Kept [] (s.discardResource ch tag domain name) := by
  unfold State.discardResource
  split
  · exact hs.reply ..
  · split
    · split
      · split
        · exact Kept.reply (hs.tables (t := s.leaveDormant _ .free) rfl rfl rfl rfl) ..
        · exact hs.reply ..
        · exact hs.reply ..
      · exact hs.reply ..
    · exact hs.reply ..

theorem Kept.inspectResource (hs : Kept [ch] s) {domain : BitVec 8} {name : Name} :
    Kept [] (s.inspectResource ch tag domain name) := by
  unfold State.inspectResource
  split
  · exact hs.reply ..
  · split
    exacts [hs.hand _, hs.reply ..]

theorem Kept.inspectSession (hs : Kept [ch] s) {session : SessionHandle} : Kept [] (s.inspectSession ch tag session) := by
  unfold State.inspectSession
  split
  · exact hs.reply ..
  · split
    exacts [hs.reply .., hs.hand _, hs.hand _]

theorem Kept.inspectDevice (hs : Kept [ch] s) : Kept [] (s.inspectDevice ch tag) := by
  unfold State.inspectDevice
  split
  exacts [hs.reply .., hs.hand _]

/-! ### Registers -/

theorem Kept.writeReqProd (hs : Kept [] s) (hp : AllPlaced s) (index : Nat) : Kept [] (s.writeReqProd ch index) := by
  unfold State.writeReqProd
  split
  · rename_i ha
    split
    exacts [hs.same (sameBooks_setChan rfl), hs.fault hp ha (fun _ _ => rfl) _]
  · exact hs.same (sameBooks_setChan rfl)
  exacts [hs, hs]

theorem Kept.noticeTurn (hs : Kept l s) (ha : (s.chan ch).state = .active) (h : s.noticeTurn ch = some t) : Kept l t := by
  refine hs.after (core_noticeTurn h ha) ?_
  unfold State.noticeTurn at h
  split at h
  · rename_i v rest _
    split_ifs at h with hfree
    cases h
    refine (hs.owing.written (x := { (s.chan ch).issue v.bytes with notices := rest }) ?_ hfree).same (sameBooks_markLapse ..)
    simp [Channel.dues, State.dues, Channel.issue, Channel.written, Channel.fetched, Channel.rplSize, Nat.add_assoc]
  · cases h

theorem sameBooks_arm (s : State) (ch : Nat) : SameBooks s (s.arm ch) := by
  unfold State.arm
  split_ifs
  exacts [(sameBooks_sendInterrupt s ch).trans (sameBooks_disarm ..), sameBooks_setChan rfl]

/-- The slots that a valid consumer index frees (R134). -/
theorem written_consumed {index : Nat} (h : (s.chan ch).consumerValid index = true) :
    ({ s.chan ch with rplCons := index } : Channel).written ≤ (s.chan ch).written := by
  obtain ⟨hlt, hle⟩ : index < (s.chan ch).rplSize ∧ ringDiff index (s.chan ch).rplCons (s.chan ch).rplSize ≤
      ringDiff (s.chan ch).rplProd (s.chan ch).rplCons (s.chan ch).rplSize := by
    simpa [Channel.consumerValid] using h
  exact Nat.add_le_add_right (ringDiff_consumed (by omega) hle) _

theorem Kept.consume (hs : Kept [] s) (ha : (s.chan ch).state = .active) {index : Nat} (h : (s.chan ch).consumerValid index = true)
    (arm : Bool) : Kept [] (s.consume ch index arm) := by
  have hfits : (s.chan ch).written + (s.chan ch).owed < (s.chan ch).rplSize := hs.owing.fits ch ha
  have hle := written_consumed h
  have hstored : Kept [] (s.setChan ch { s.chan ch with rplCons := index }) :=
    hs.recounted (l' := []) ha ha rfl (fun _ _ => rfl) (Nat.lt_of_le_of_lt (Nat.add_le_add_right hle _) hfits)
  have hturns (fuel : Nat) : Kept [] (repeatTurn (·.noticeTurn ch) fuel (s.setChan ch { s.chan ch with rplCons := index })) := by
    refine (repeatTurn_keeps (P := fun u => Kept [] u ∧ (u.chan ch).state = .active) (fun u v hu huv => ?_) ⟨hstored, ?_⟩ fuel).1
    · exact ⟨hu.1.noticeTurn hu.2 huv, ((core_frame (core_noticeTurn huv hu.2)).1 ch).trans hu.2⟩
    · rw [State.chan_setChan, if_pos rfl]
      exact ha
  unfold State.consume
  dsimp only
  split_ifs
  exacts [(hturns _).same (sameBooks_arm ..), hturns _]

/-- An index stored for a channel that is not ACTIVE. -/
theorem Kept.stored (hs : Kept l s) (hch : (s.chan ch).state ≠ .active) (hx : x.state = (s.chan ch).state)
    (ho : x.owed = (s.chan ch).owed) : Kept l (s.setChan ch x) :=
  hs.stays hch (hx ▸ hch) (ho.trans (hs.owing.quiet ch hch)) fun h => hx.trans (hs.closing ch h)

theorem Kept.writeRplCons (hs : Kept [] s) (hp : AllPlaced s) (index : Nat) (arm : Bool) :
    Kept [] (s.writeRplCons ch index arm) := by
  unfold State.writeRplCons
  split
  · rename_i ha
    split
    · exact hs.consume ha ‹_› arm
    · exact hs.fault hp ha (fun _ _ => rfl) _
  · rename_i hf
    exact hs.stored (by simp [hf]) rfl rfl
  exacts [hs, hs]

theorem Kept.badSetup (hs : Kept l s) (h0 : (s.chan 0).state ≠ .active) (hc : (s.chan 0).state ≠ .closing) : Kept l s.badSetup := by
  have hbad : Kept l (s.setChan 0 { s.chan 0 with state := .faulted, cause := .badSetup, armed := false }) :=
    hs.stays h0 (by simp) (hs.owing.quiet 0 h0) fun h => absurd (hs.closing 0 h) hc
  unfold State.badSetup State.setupInterrupt
  split_ifs
  exacts [hbad.tables rfl rfl rfl rfl, hbad]

theorem Kept.startManagement (hs : Kept [] s) (h0 : (s.chan 0).state ≠ .active) (hc : (s.chan 0).state ≠ .closing)
    (hv : s.mgmt.rings.valid = true) : Kept [] s.startManagement :=
  hs.started h0 hc (dues_ringStart _) (rplSize_pos_of_valid hv) rfl

theorem Kept.writeMgmtControl (hs : Kept [] s) (v : BitVec 32) : Kept [] (s.writeMgmtControl v) := by
  unfold State.writeMgmtControl State.enable State.restartManagement
  split
  · rename_i h
    have h0 : (s.chan 0).state ≠ .active := by simp [h]
    have hc : (s.chan 0).state ≠ .closing := by simp [h]
    split_ifs with _ hv
    exacts [hs.startManagement h0 hc hv, hs.badSetup h0 hc, hs]
  · rename_i h
    have h0 : (s.chan 0).state ≠ .active := by simp [h]
    have hc : (s.chan 0).state ≠ .closing := by simp [h]
    split_ifs with _ _ hv
    exacts [hs, hs.startManagement h0 hc hv, hs.badSetup h0 hc, hs]
  exacts [hs, hs]

/-! ### DMA -/

theorem Kept.issueFetch (hs : Kept [] s) (h : (s.chan n).ready = true) : Kept [] (s.issueFetch n) := by
  obtain ⟨ha, hidle, -, hfree⟩ : (s.chan n).state = .active ∧ (s.chan n).fetch = .idle ∧ 1 ≤ (s.chan n).pendingCount ∧
      1 ≤ (s.chan n).unreserved := by
    simpa [Channel.ready, and_assoc] using h
  have hcount : (s.chan n).fetchCount ≤ (s.chan n).unreserved := (Nat.min_le_right ..).trans (Nat.min_le_right ..)
  have hnone : (s.chan n).fetched = 0 := by rw [Channel.fetched, hidle]
  rw [Channel.unreserved, Channel.capacity] at hcount hfree
  have hissued : Kept [] (s.setChan n { s.chan n with
      fetch := .reading (s.chan n).reqCons (s.chan n).fetchCount
      owed := (s.chan n).owed + (s.chan n).fetchCount }) := by
    refine hs.recounted (l' := []) ha ha (by rw [hnone]; rfl) (fun _ _ => rfl) ?_
    show (s.chan n).written + ((s.chan n).owed + (s.chan n).fetchCount) < (s.chan n).rplSize
    omega
  exact hissued.tables rfl rfl rfl rfl

theorem Kept.completeFetch (hs : Kept [] s) {ch : Fin 16} {start count : Nat} {es : List RingEntry}
    (hf : (s.chan ch).fetch = .reading start count) (hlen : es.length = count) : Kept [] (s.completeFetch ch count es) := by
  refine hs.same (sameBooks_setChan ?_)
  simp [Channel.dues, State.dues, Channel.fetched, Channel.written, Channel.rplSize, hf, hlen]

theorem Kept.discardFetch (hs : Kept [] s) (hch : (s.chan ch).state ≠ .active) : Kept [] (s.discardFetch ch) := by
  have hcleared : Kept [] (s.setChan ch { s.chan ch with fetch := .idle }) := hs.stored hch rfl rfl
  exact hcleared.endTeardownIfDrained

theorem Kept.discardWrite (hs : Kept [] s) (hch : (s.chan ch).state ≠ .active) :
    Kept [] ((s.popWrite ch).endTeardownIfDrained ch) := by
  have hpopped : Kept [] (s.popWrite ch) := hs.stored hch rfl rfl
  exact hpopped.endTeardownIfDrained

/-- The entries of a failed fetch are not to be taken: their replies would be still to be given (R128). -/
theorem Kept.failedFetch (hs : Kept [] s) (ha : (s.chan ch).state = .active) :
    Kept (List.replicate (s.chan ch).fetched ch) (s.setChan ch { s.chan ch with fetch := .idle }) := by
  refine hs.recounted ha ha ?_ (fun n hn => ?_) (hs.owing.fits ch ha)
  · rw [List.count_replicate_self]
    rfl
  · rw [List.count_replicate, if_neg (by simpa using hn.symm)]
    rfl

theorem written_popWrite (h : (s.chan ch).writes ≠ []) :
    ({ s.chan ch with writes := (s.chan ch).writes.drop 1 } : Channel).written + 1 = (s.chan ch).written := by
  have hpos : 0 < (s.chan ch).writes.length := List.length_pos_iff.mpr h
  show ringDiff _ _ _ + ((s.chan ch).writes.drop 1).length + 1 = ringDiff _ _ _ + (s.chan ch).writes.length
  rw [List.length_drop]
  simp only [Channel.rplSize]
  omega

theorem Kept.popWrite (hs : Kept [] s) (ha : (s.chan ch).state = .active) (h : (s.chan ch).writes ≠ []) :
    Kept [] (s.popWrite ch) := by
  have hfits : (s.chan ch).written + (s.chan ch).owed < (s.chan ch).rplSize := hs.owing.fits ch ha
  have hpop := written_popWrite h
  exact hs.recounted (l' := []) ha ha rfl (fun _ _ => rfl) (Nat.lt_of_le_of_lt (Nat.add_le_add_right (by omega) _) hfits)

theorem Kept.completeWrite (hs : Kept [] s) (ha : (s.chan ch).state = .active) (h : (s.chan ch).writes ≠ []) :
    Kept [] (s.completeWrite ch) := by
  have hfits : (s.chan ch).written + (s.chan ch).owed < (s.chan ch).rplSize := hs.owing.fits ch ha
  have hpos : 0 < (s.chan ch).writes.length := List.length_pos_iff.mpr h
  have hprod := ringDiff_succ (s.chan ch).rplProd (s.chan ch).rplCons (s.chan ch).rplSize
  have hcompleted : Kept [] ((s.popWrite ch).setChan ch
      { (s.popWrite ch).chan ch with rplProd := ((s.chan ch).rplProd + 1) % (s.chan ch).rplSize }) := by
    refine (hs.popWrite ha h).recounted (l' := []) ?_ ?_ ?_ (fun _ _ => rfl) ?_ <;>
      simp only [State.popWrite, State.chan_setChan, if_true]
    · exact ha
    · exact ha
    · rfl
    · show ringDiff (((s.chan ch).rplProd + 1) % (s.chan ch).rplSize) (s.chan ch).rplCons (s.chan ch).rplSize +
        ((s.chan ch).writes.drop 1).length + (s.chan ch).owed < (s.chan ch).rplSize
      rw [List.length_drop]
      rw [Channel.written] at hfits
      omega
  exact hcompleted.same (sameBooks_interrupt ..)

/-! ### Time -/

theorem ClaimState.wait_atTick (now : Tick) (st : ClaimState) : (st.atTick now).wait.isSome = st.wait.isSome := by cases st <;> rfl

theorem sameBooks_tickOnce (s : State) : SameBooks s s.tickOnce := by
  have hch (i : Nat) : (s.tickOnce.session i).channel = (s.session i).channel := by
    rw [State.session, State.tickOnce, Table.get_map _ _ rfl, SessionRec.atTick, State.session]
    split <;> simp [SessionRec.channel, *]
  refine ⟨fun _ => rfl, fun c => dueOn_congr ?_ hch, rfl, hch⟩
  rw [claimAt_tickOnce, Option.map_map]
  exact congrArg (Option.map · _) (funext fun b => by simp [ClaimState.wait_atTick])

theorem Kept.cleared (s : State) (ready : Bool) : Kept [] (s.cleared ready) := by
  have hoff (n : Nat) : ((s.cleared ready).chan n).state ≠ .active := by
    rw [show (s.cleared ready).chan n = Channel.reset from Table.get_empty n]
    simp [Channel.reset]
  refine ⟨⟨fun n hn => absurd hn (hoff n), fun n hn => absurd hn (hoff n), fun n _ => ?_⟩, fun n c hc => ?_,
    fun _ n => Table.get_empty n, fun i => ?_, fun n hn => absurd (Table.get_empty n) hn⟩
  · rw [State.dues, show (s.cleared ready).chan n = Channel.reset from Table.get_empty n]
    rfl
  · rw [dueOn_of_none (show (s.cleared ready).claimAt c = none from rfl)] at hc
    cases hc
  · rw [show (s.cleared ready).session i = SessionRec.reset from Table.get_empty i]
    simp [SessionRec.channel, SessionRec.reset]

/-! ### Every command -/

/-- The entry taken reserves the reply that its request is to give (R127). -/
theorem Kept.popRequest (hs : Kept [] s) {i : Instr} (h : s.nextRequest ch = some i) : Kept [ch] (s.popRequest ch) := by
  have ha := nextRequest_active h
  obtain ⟨rest, hfetch⟩ : ∃ rest, (s.chan ch).fetch = .taking (i :: rest) := by
    rw [State.nextRequest, if_pos ha] at h
    split at h
    · cases h
      exact ⟨_, ‹_›⟩
    all_goals cases h
  refine hs.recounted ha ha ?_ (fun n hn => by simp [hn.symm]) (hs.owing.fits ch ha)
  cases rest <;> simp [Channel.fetched, hfetch, Fetch.afterTaking, Nat.add_assoc]

theorem Kept.taken {ch : Fin 16} {i : Instr} {f : State → State} (h : takeRequest ch i f s = .next t) (hs : Kept [] s)
    (hf : Kept [ch.val] (s.popRequest ch) → ((s.popRequest ch).chan ch).state = .active → Kept [] (f (s.popRequest ch))) :
    Kept [] t := by
  unfold takeRequest at h
  split at h
  · rename_i hn
    cases h
    refine hf (hs.popRequest hn) ?_
    rw [State.popRequest, State.chan_setChan, if_pos rfl]
    exact nextRequest_active hn
  · cases h
    exact hs

theorem Kept.exec {c : Instr} (h : exec c s = .next t) (hs : Kept [] s) (hp : AllPlaced s)
    (hr : ∀ n, n ≠ 0 → (s.chan n).state = .faulted → 0 < (s.chan n).rplSize) : Kept [] t := by
  have hpopped (n : Nat) : AllPlaced (s.popRequest n) := hp.setChan ..
  cases c
  case openSession ch tag p v =>
    simp only [Machine.exec, execOpenSession] at h
    exact .taken h hs fun hu _ => hu.openSession (hpopped ch)
  case closeSession ch tag session =>
    simp only [Machine.exec, execCloseSession] at h
    exact .taken h hs fun hu _ => hu.closeSession (hpopped ch)
  case keepalive =>
    simp only [Machine.exec, execKeepalive] at h
    exact .taken h hs fun hu _ => hu.keepalive
  case acquire =>
    simp only [Machine.exec, execAcquire] at h
    exact .taken h hs fun hu ha => hu.acquire ha fun hn => (pickClaim_free _ hn).1
  case convert =>
    simp only [Machine.exec, execConvert] at h
    exact .taken h hs fun hu ha => hu.convert ha
  case release =>
    simp only [Machine.exec, execRelease] at h
    exact .taken h hs fun hu _ => hu.release
  case cancel =>
    simp only [Machine.exec, execCancel] at h
    exact .taken h hs fun hu _ => hu.cancel
  case checkFence =>
    simp only [Machine.exec, execCheckFence] at h
    exact .taken h hs fun hu _ => hu.checkFence
  case unknownKindRequest =>
    simp only [Machine.exec, execUnknownKindRequest] at h
    exact .taken h hs fun hu _ => hu.reply ..
  case setupChannel =>
    simp only [Machine.exec, execSetupChannel] at h
    exact .taken h hs fun hu _ => hu.setupChannel
  case teardownChannel ch tag target =>
    simp only [Machine.exec, execTeardownChannel] at h
    exact .taken h hs fun hu ha => hu.teardownChannel (hpopped ch) ha
  case restartChannel ch tag target =>
    simp only [Machine.exec, execRestartChannel] at h
    refine .taken h hs fun hu _ => hu.restartChannel fun n hn hf => ?_
    rw [State.popRequest, State.chan_setChan] at hf ⊢
    split_ifs at hf ⊢ with hch
    exacts [hch ▸ hr n hn (hch ▸ hf), hr n hn hf]
  case setAccess =>
    simp only [Machine.exec, execSetAccess] at h
    exact .taken h hs fun hu _ => hu.setAccess
  case setLimits =>
    simp only [Machine.exec, execSetLimits] at h
    exact .taken h hs fun hu _ => hu.setLimits
  case setTick =>
    simp only [Machine.exec, execSetTick] at h
    exact .taken h hs fun hu _ => hu.setTick
  case evictSession =>
    simp only [Machine.exec, execEvictSession] at h
    exact .taken h hs fun hu _ => hu.evictSession
  case discardResource =>
    simp only [Machine.exec, execDiscardResource] at h
    exact .taken h hs fun hu _ => hu.discardResource
  case inspectResource =>
    simp only [Machine.exec, execInspectResource] at h
    exact .taken h hs fun hu _ => hu.inspectResource
  case inspectSession =>
    simp only [Machine.exec, execInspectSession] at h
    exact .taken h hs fun hu _ => hu.inspectSession
  case inspectDevice =>
    simp only [Machine.exec, execInspectDevice] at h
    exact .taken h hs fun hu _ => hu.inspectDevice
  case reqProdWrite =>
    cases h
    split_ifs
    exacts [hs.writeReqProd hp _, hs]
  case rplConsWrite =>
    cases h
    split_ifs
    exacts [hs.writeRplCons hp _ _, hs]
  case mgmtControlEnable =>
    cases h
    split_ifs
    exacts [hs.writeMgmtControl _, hs]
  case mgmtControlRestart =>
    cases h
    split_ifs
    exacts [hs.writeMgmtControl _, hs]
  case mgmtRingRegisterWrite =>
    cases h
    split_ifs
    exacts [hs.tables rfl rfl rfl rfl, hs]
  case otherRegisterWrite =>
    cases h
    exact hs
  case tick =>
    cases h
    split_ifs
    exacts [hs.same (sameBooks_tickOnce s), hs]
  case keepaliveExpiry =>
    cases h
    split_ifs
    exacts [hs.lapse _ _, hs]
  case waitExpiry =>
    cases h
    split_ifs
    · unfold State.expireWait
      split
      · exact (hs.after (core_endWait ..) (hs.owing.endWait ..)).finish _
      · exact hs
    · exact hs
  case fetchIssue =>
    cases h
    split
    · rename_i n hn
      exact hs.issueFetch (by simpa using List.find?_some hn)
    · exact hs
  case fetchCompletion =>
    cases h
    split
    · rename_i start count hf
      split_ifs with hlen ha
      exacts [hs, hs.completeFetch hf (not_not.mp hlen), hs.discardFetch ha]
    exacts [hs, hs]
  case fetchError ch =>
    cases h
    split
    · split_ifs with ha
      · refine (hs.failedFetch ha).fault (hp.setChan ..) (by simpa using ha) (fun n hn => ?_) _
        rw [List.count_replicate, if_neg (by simpa using hn.symm)]
      · exact hs.discardFetch ha
    exacts [hs, hs]
  case writeCompletion =>
    cases h
    split_ifs with hw ha
    exacts [hs, hs.completeWrite ha hw, hs.discardWrite ha]
  case writeError =>
    cases h
    split_ifs with hw ha
    · exact hs
    · exact (hs.popWrite ha hw).fault (hp.setChan ..) (by simpa [State.popWrite] using ha) (fun _ _ => rfl) _
    · exact hs.discardWrite ha
  case teardownEnd =>
    cases h
    exact hs.endTeardownIfDrained
  case deviceReset =>
    cases h
    exact .cleared ..
  case startupEnd =>
    cases h
    split_ifs
    exacts [hs, .cleared ..]

end

/-- Settles O53: within a command the owed count of an ACTIVE channel is what it reserves and the replies still to be given
there, and each part of a command gives a reply, or lets a claim wait with it, as it takes one from that count. -/
theorem reservationsKeptByStep : Obligations.ReservationsKeptByStep := by
  intro s t hp hq hr hs h
  unfold step at h
  split at h
  · have hkept : Kept [] s := hs.kept hq hr
    refine Kept.reservationsKept (Kept.exec h (hkept.tables rfl rfl rfl rfl) (AllPlaced.tables hp.placed ⟨rfl, rfl, rfl⟩)
      fun n hn hf => ?_)
    have hfaulted : (s.chan n).state = .faulted := hf
    obtain ⟨r, hrings, hv⟩ := hr.configured n (.inr ⟨hn, by simp [hfaulted]⟩)
    show 0 < (s.chan n).rplSize
    rw [Channel.rplSize, hrings]
    exact rplSize_pos_of_valid hv
  · cases h
    exact hs

end Sys2Proof.Machine
end

section
/-! PROOFS. The kind and range checks of every request (R45, R46, R156, R168). -/

namespace Sys2Proof.Machine

/-! ### The handler of a request -/

/-- What the handler of request `c` makes of the state in which it is taken; a command that is no request has none. -/
def State.handled (s : State) (c : Instr) : State :=
  match c with
  | .openSession ch tag period notices => s.openSession ch tag period notices
  | .closeSession ch tag session => s.closeSession ch tag session
  | .keepalive ch tag session => s.keepalive ch tag session
  | .acquire ch tag session domain mode wait name => s.acquire s.pickClaim ch tag session domain mode wait name
  | .convert ch tag claim mode present invalidate wait value => s.convert ch tag claim mode present invalidate wait value
  | .release ch tag claim present invalidate value => s.release ch tag claim present invalidate value
  | .cancel ch tag session domain name => s.cancel ch tag session domain name
  | .checkFence ch tag session domain name serial => s.checkFence ch tag session domain name serial
  | .unknownKindRequest ch tag _ => s.reply ch .unknown tag .badRequest
  | .setupChannel ch tag target vector sessionLimit claimLimit reqBase rplBase reqSize rplSize =>
    s.setupChannel ch tag target vector sessionLimit claimLimit reqBase rplBase reqSize rplSize
  | .teardownChannel ch tag target => s.teardownChannel ch tag target
  | .restartChannel ch tag target => s.restartChannel ch tag target
  | .setAccess ch tag target domain level => s.setAccess ch tag target domain level
  | .setLimits ch tag target sessionLimit claimLimit => s.setLimits ch tag target sessionLimit claimLimit
  | .setTick ch tag period => s.setTick ch tag period
  | .evictSession ch tag session => s.evictSession ch tag session
  | .discardResource ch tag domain name => s.discardResource ch tag domain name
  | .inspectResource ch tag domain name => s.inspectResource ch tag domain name
  | .inspectSession ch tag session => s.inspectSession ch tag session
  | .inspectDevice ch tag => s.inspectDevice ch tag
  | .reqProdWrite .. | .rplConsWrite .. | .mgmtControlEnable .. | .mgmtControlRestart .. | .mgmtRingRegisterWrite ..
  | .otherRegisterWrite .. | .tick | .keepaliveExpiry .. | .waitExpiry .. | .fetchIssue | .fetchCompletion ..
  | .fetchError .. | .writeCompletion .. | .writeError .. | .teardownEnd .. | .deviceReset | .startupEnd => s

section
variable {s : State} {ch : Fin 16} {c : Instr} {st : Status}

/-- The request that stands next to be taken runs its handler on the state without it (R127). -/
theorem exec_request (hc : c.requestChannel = some ch) (hn : s.nextRequest ch = some c) :
    exec c s = .next ((s.popRequest ch).handled c) := by
  have htaken : exec c s = takeRequest ch c (fun u => u.handled c) s := by cases c <;> cases hc <;> rfl
  rw [htaken, takeRequest_next hn]

/-- A request that its handler refuses is answered so, and nothing else changes. -/
theorem exec_refused (hc : c.requestChannel = some ch) (hn : s.nextRequest ch = some c)
    (hrefuse : ∀ u : State, u.handled c = u.reply ch c.replyKind c.requestTag st) :
    exec c s = .next (s.answered ch ⟨c.replyKind, c.requestTag, st, .header⟩) := by
  rw [exec_request hc hn, hrefuse]
  exact taken_answered hn _

/-! ### The kind of channel (R45, R156) -/

theorem handled_client_on_management (hc : c.requestChannel = some ch) (h0 : (ch : Nat) = 0)
    (hclient : c.isClientRequest = true) (u : State) :
    u.handled c = u.reply ch c.replyKind c.requestTag .notPermitted := by
  cases c
  case openSession | closeSession | keepalive | acquire | convert | release | cancel | checkFence =>
    cases hc
    exact if_pos h0
  all_goals cases hclient

theorem handled_management_on_client (hc : c.requestChannel = some ch) (h0 : (ch : Nat) ≠ 0)
    (hmgmt : c.isManagementRequest = true) (u : State) :
    u.handled c = u.reply ch c.replyKind c.requestTag .notPermitted := by
  cases c
  case setupChannel | teardownChannel | restartChannel | setAccess | setLimits | setTick | evictSession | discardResource
      | inspectResource | inspectSession | inspectDevice =>
    cases hc
    exact if_pos h0
  all_goals cases hmgmt

/-! ### The field ranges (R46, R96, R157, R161, R162) -/

theorem keyOf_out_of_range {d : BitVec 8} (n : Name) (h : decide (d.toNat ≤ 15) = false) : keyOf d n = none := by
  rw [← Option.isNone_iff_eq_none, keyOf_isNone, h]
  rfl

theorem mode_out_of_range {x : BitVec 8} (h : decide (1 ≤ x.toNat ∧ x.toNat ≤ 3) = false) : Mode.ofCode x = none := by
  rw [← Option.isNone_iff_eq_none, Mode.ofCode_isNone, h]
  rfl

theorem level_out_of_range {x : BitVec 8} (h : decide (x.toNat ≤ 2) = false) : Level.ofCode x = none := by
  rw [← Option.isNone_iff_eq_none, Level.ofCode_isNone, h]
  rfl

theorem target_out_of_range {x : BitVec 8} (h : targetInRange x = false) : targetOf x = none := by
  rw [targetOf_eq, h]
  rfl

theorem targetInRange_of_targetOf {x : BitVec 8} {t : Nat} (h : targetOf x = some t) : targetInRange x = true := by
  by_contra hout
  rw [target_out_of_range (Bool.eq_false_iff.mpr hout)] at h
  cases h

/-- The range checks of the client requests (R46, R76). -/
theorem handled_client_out_of_range (hc : c.requestChannel = some ch) (h0 : ¬(ch : Nat) = 0)
    (hclient : c.isClientRequest = true) (hrange : c.inRange = false) (u : State) :
    u.handled c = u.reply ch c.replyKind c.requestTag .badRequest := by
  cases c
  case openSession tag period notices =>
    cases hc
    have hperiod : period = 0 := BitVec.eq_of_toNat_eq (Nat.eq_zero_of_not_pos (of_decide_eq_false hrange))
    exact (if_neg h0).trans (if_pos hperiod)
  case acquire tag session domain mode limit name =>
    cases hc
    refine (if_neg h0).trans ?_
    rcases Bool.and_eq_false_iff.mp hrange with hdomain | hmode
    · rw [keyOf_out_of_range name hdomain]
      cases Mode.ofCode mode <;> rfl
    · rw [mode_out_of_range hmode]
      rfl
  case convert tag claim mode present invalidate limit value =>
    cases hc
    refine (if_neg h0).trans ?_
    rcases Bool.and_eq_false_iff.mp hrange with hmode | hflags
    · rw [mode_out_of_range hmode]
      rfl
    · cases Mode.ofCode mode with
      | none => rfl
      | some m => exact if_pos ((Bool.not_eq_false' _).mp hflags)
  case release =>
    cases hc
    exact (if_neg h0).trans (if_pos ((Bool.not_eq_false' _).mp hrange))
  case cancel | checkFence =>
    cases hc
    refine (if_neg h0).trans ?_
    rw [keyOf_out_of_range _ hrange]
    rfl
  case closeSession | keepalive => cases hrange
  all_goals cases hclient

/-- The range checks of the management requests (R96, R157, R161, R162). -/
theorem handled_management_out_of_range (hc : c.requestChannel = some ch) (h0 : ¬(ch : Nat) ≠ 0)
    (hmgmt : c.isManagementRequest = true) (hrange : c.inRange = false) (u : State) :
    u.handled c = u.reply ch c.replyKind c.requestTag .badRequest := by
  cases c
  case setupChannel tag target vector sessionLimit claimLimit reqBase rplBase reqSize rplSize =>
    cases hc
    refine (if_neg h0).trans ?_
    cases htarget : targetOf target with
    | none => rfl
    | some t =>
      have hrings : setupRings vector sessionLimit claimLimit reqBase rplBase reqSize rplSize = none := by
        rw [setupRings_eq]
        refine if_neg (Bool.eq_false_iff.mp ?_)
        simpa only [Instr.inRange, targetInRange_of_targetOf htarget, Bool.true_and] using hrange
      rw [hrings]
      rfl
  case teardownChannel | restartChannel =>
    cases hc
    refine (if_neg h0).trans ?_
    rw [target_out_of_range hrange]
    rfl
  case setAccess tag target domain level =>
    cases hc
    refine (if_neg h0).trans ?_
    cases htarget : targetOf target with
    | none => rfl
    | some t =>
      simp only [Instr.inRange, targetInRange_of_targetOf htarget, Bool.true_and] at hrange
      cases hlevel : Level.ofCode level with
      | none => rfl
      | some l =>
        refine if_pos (Nat.lt_of_not_le fun hdomain => ?_)
        rw [decide_eq_true (show domain.toNat ≤ 15 from hdomain), Bool.true_and] at hrange
        rw [level_out_of_range hrange] at hlevel
        cases hlevel
  case setLimits tag target sessionLimit claimLimit =>
    cases hc
    refine (if_neg h0).trans ?_
    cases htarget : targetOf target with
    | none => rfl
    | some t =>
      simp only [Instr.inRange, targetInRange_of_targetOf htarget, Bool.true_and] at hrange
      exact if_pos ((Bool.and_eq_false_iff.mp hrange).imp (fun h => Nat.lt_of_not_le (of_decide_eq_false h)) fun h =>
        Nat.lt_of_not_le (of_decide_eq_false h))
  case setTick tag period =>
    cases hc
    refine (if_neg h0).trans (if_pos ?_)
    exact (not_and_or.mp (of_decide_eq_false hrange)).imp Nat.lt_of_not_le Nat.lt_of_not_le
  case discardResource | inspectResource =>
    cases hc
    refine (if_neg h0).trans ?_
    rw [keyOf_out_of_range _ hrange]
    rfl
  case evictSession | inspectSession | inspectDevice => cases hrange
  all_goals cases hmgmt

/-! ### Unknown kinds (R168) -/

theorem handled_unknown_kind (hc : c.requestChannel = some ch) (hclient : c.isClientRequest = false)
    (hmgmt : c.isManagementRequest = false) (u : State) :
    u.handled c = u.reply ch c.replyKind c.requestTag .badRequest := by
  cases c
  case unknownKindRequest =>
    cases hc
    rfl
  case openSession | closeSession | keepalive | acquire | convert | release | cancel | checkFence => cases hclient
  case setupChannel | teardownChannel | restartChannel | setAccess | setLimits | setTick | evictSession | discardResource
      | inspectResource | inspectSession | inspectDevice => cases hmgmt
  all_goals cases hc

end

/-- Settles O22: the handlers test the kind of the channel first and the field ranges next. -/
theorem wrongKindOrRangeRefused : Obligations.WrongKindOrRangeRefused := by
  intro s c ch hc hn
  refine ⟨fun hkind => exec_refused hc hn ?_, fun hkind hrange => exec_refused hc hn ?_, fun hclient hmgmt =>
    exec_refused hc hn (handled_unknown_kind hc hclient hmgmt)⟩
  · rcases hkind with ⟨rfl, hclient⟩ | ⟨h0, hmgmt⟩
    · exact handled_client_on_management hc rfl hclient
    · exact handled_management_on_client hc (fun h => h0 (Fin.ext h)) hmgmt
  · rcases hkind with ⟨h0, hclient⟩ | ⟨rfl, hmgmt⟩
    · exact handled_client_out_of_range hc (fun h => h0 (Fin.ext h)) hclient hrange
    · exact handled_management_out_of_range hc (fun h => h rfl) hmgmt hrange

end Sys2Proof.Machine
end

section
/-! PROOFS. The checks of ACQUIRE (R12, R48, R49) and of CONVERT (R48, R54, R55, R59) that refuse. -/

namespace Sys2Proof.Machine

section
variable {s : State} {ch : Fin 16} {tag : ReqTag} {h : SessionHandle} {i : Nat} {o : OpenSession} {k : Key} {m : Mode}
  {limit : BitVec 16} {st : Status}

/-! ### What the checks read of a request that has begun -/

theorem access_begun (s : State) (n i : Nat) (o : OpenSession) (j : Nat) :
    ((s.begun n i o).chan j).access = (s.chan j).access := popChan_access s n j

theorem claimLimit_begun (s : State) (n i : Nat) (o : OpenSession) (j : Nat) :
    ((s.begun n i o).chan j).claimLimit = (s.chan j).claimLimit := popChan_claimLimit s n j

theorem alreadyClaimed_begun (s : State) (n i : Nat) (o : OpenSession) (k : Key) :
    (s.begun n i o).alreadyClaimed i k = true ↔ ∃ c ∈ o.claims, ∃ b, s.claimAt c = some b ∧ (s.entry b.way).key = k :=
  alreadyClaimed_iff (o := o.renewedAt s.now) (session_begun s n i o)

/-! ### ACQUIRE -/

/-- An absent key has no place in a bucket without a FREE or a DORMANT way (R12). -/
theorem place_none {s : State} (hl : s.lookup k = none) (hf : ∀ w ∈ bucketWays k.bucket, s.way w ≠ .free)
    (hd : s.dormantOrder k.bucket = []) : s.place k = none := by
  have hnone : (bucketWays k.bucket).find? (fun w => decide (s.way w = .free)) = none :=
    List.find?_eq_none.mpr fun w hw => by simpa using hf w hw
  rw [State.place, hl]
  dsimp only
  rw [hnone, hd]

/-- An ACQUIRE past the handle check that is refused: the session is renewed, and nothing else changes (R47, R78). -/
theorem exec_acquire_refused (hn : s.nextRequest ch = some (.acquire ch tag h (k.domain.setWidth 8) m.code limit k.name))
    (hch : (ch : Nat) ≠ 0) (hs : s.namesOpen ch h i o)
    (hr : (s.begun ch i o).acquireChecked s.pickClaim ch tag i k m limit = (s.begun ch i o).reply ch .acquire tag st) :
    exec (.acquire ch tag h (k.domain.setWidth 8) m.code limit k.name) s =
      .next ((s.renewed i o).answered ch ⟨.acquire, tag, st, .header⟩) := by
  rw [exec_acquire hn hch hs, hr, State.reply, begun_hand _ (nextRequest_active hn)]

end

/-- Settles O14: each check is reached past the ones before it, and the placing of the key past them all. -/
theorem acquireRefused : Obligations.AcquireRefused := by
  intro s ch tag h i o k m limit hn hch hs
  have h0 : (ch : Nat) ≠ 0 := fun h => hch (Fin.ext h)
  obtain ⟨-, -, -, ho, -⟩ := id hs
  have hlevel : ((s.begun ch i o).chan ch).access.get k.domain.toNat = (s.chan ch).access.get k.domain.toNat := by
    rw [access_begun]
  have hlimit : ((s.begun ch i o).chan ch).claimLimit ≤ (s.begun ch i o).claimCount ch ↔
      (s.chan ch).claimLimit ≤ s.claimCount ch := by
    rw [claimLimit_begun, claimCount_begun ho]
  refine ⟨fun haccess => exec_acquire_refused hn h0 hs (if_pos (hlevel.trans_ne haccess)), fun haccess => ?_⟩
  have hpast : ¬((s.begun ch i o).chan ch).access.get k.domain.toNat ≠ .full := not_not.mpr (hlevel.trans haccess)
  refine ⟨fun hclaimed => exec_acquire_refused hn h0 hs ?_, fun hsingle => ?_⟩
  · exact (if_neg hpast).trans (if_pos ((alreadyClaimed_begun ..).mpr hclaimed))
  have hunclaimed : ¬(s.begun ch i o).alreadyClaimed i k = true := fun hclaimed => by
    obtain ⟨c, hc, b, hb, hk⟩ := (alreadyClaimed_begun ..).mp hclaimed
    exact hsingle c hc b hb hk
  refine ⟨fun hquota => exec_acquire_refused hn h0 hs ?_, fun hquota => ?_⟩
  · exact (if_neg hpast).trans ((if_neg hunclaimed).trans (if_pos (hlimit.mpr hquota)))
  have hbelow : ¬((s.begun ch i o).chan ch).claimLimit ≤ (s.begun ch i o).claimCount ch :=
    hlimit.not.mpr (Nat.not_le.mpr hquota)
  refine ⟨fun hrecord => exec_acquire_refused hn h0 hs ?_, fun hrecord =>
    ⟨fun hm hserial => exec_acquire_refused hn h0 hs ?_, fun hserial hfull hd => exec_acquire_refused hn h0 hs ?_⟩⟩
  · exact (if_neg hpast).trans ((if_neg hunclaimed).trans ((if_neg hbelow).trans (if_pos hrecord)))
  · exact (if_neg hpast).trans ((if_neg hunclaimed).trans ((if_neg hbelow).trans ((if_neg hrecord).trans
      (if_pos ⟨hm, hserial⟩))))
  · have hplace : (s.begun ch i o).place k = none :=
      place_none (lookup_none_of_absent (s := s) fun w hw => (hfull w hw).1)
        (fun w hw hfree => by simpa [show s.way w = .free from hfree, Way.wayState] using (hfull w hw).2) hd
    rw [acquireChecked_passes ⟨h0, hs, haccess, hsingle, hquota, hrecord, hserial⟩, hplace]

/-! ### CONVERT -/

/-- The pairs of modes that are no conversion (R54). -/
theorem conversionKind_bad_iff {x m : Mode} : conversionKind x m = .bad ↔ x = m ∨ (x = .shared ∧ m = .exclusive) := by
  cases x <;> cases m <;> simp [conversionKind]

theorem asksHigher_iff {st : ClaimState} {m : Mode} :
    st.asksHigher m = true ↔ ∃ x, st.heldMode = some x ∧ x.rank < m.rank := by
  unfold ClaimState.asksHigher
  rcases st.heldMode with _ | x <;> simp

section
variable {s : State} {ch : Fin 16} {tag : ReqTag} {n c w : Nat} {h : ClaimHandle} {b : Claim} {o : OpenSession}
  {held m : Mode} {present invalidate : Bool} {limit : BitVec 16} {value : ValueWord} {st : Status}

/-- Past the access check a HELD claim goes on to the checks of CONVERT's kind (R48, R55). -/
theorem convertChecked_held (hst : b.state = .held held)
    (hfull : b.state.asksHigher m = true → (s.chan n).access.get (s.entry b.way).key.domain.toNat = .full) :
    s.convertChecked n tag c b m present invalidate limit value =
      s.convertHeld n tag c b.way held m present invalidate limit value := by
  rw [State.convertChecked, if_neg fun h => h.2 (hfull h.1), hst]

/-- Past the access check a claim that waits is refused (R55). -/
theorem convertChecked_waits (hst : ∀ x, b.state ≠ .held x)
    (hfull : b.state.asksHigher m = true → (s.chan n).access.get (s.entry b.way).key.domain.toNat = .full) :
    s.convertChecked n tag c b m present invalidate limit value = s.refuseConvert n tag c .inProgress := by
  rw [State.convertChecked, if_neg fun h => h.2 (hfull h.1)]
  rcases hb : b.state with ⟨x, wait⟩ | x | ⟨x, y, wait⟩
  · rfl
  · exact absurd hb (hst x)
  · rfl

theorem convertHeld_badConversion (h : held = m ∨ (held = .shared ∧ m = .exclusive)) :
    s.convertHeld n tag c w held m present invalidate limit value = s.refuseConvert n tag c .badConversion := by
  rw [State.convertHeld, conversionKind_bad_iff.mpr h]

/-- A flag on anything but a downgrade from X (R55, R62). -/
theorem convertHeld_badValue (hkind : ¬(held = m ∨ (held = .shared ∧ m = .exclusive))) (hx : held ≠ .exclusive)
    (hflags : (present || invalidate) = true) :
    s.convertHeld n tag c w held m present invalidate limit value = s.refuseConvert n tag c .badValue := by
  rw [State.convertHeld]
  cases hk : conversionKind held m with
  | bad => exact absurd (conversionKind_bad_iff.mp hk) hkind
  | downgrade => exact if_pos (by rw [hflags, decide_eq_true hx]; rfl)
  | upgrade => exact if_pos hflags

/-- The checks of an upgrade without flags (R55, R59). -/
theorem convertHeld_upgrade (hkind : conversionKind held m = .upgrade) :
    s.convertHeld n tag c w held m false false limit value =
      if m = .exclusive ∧ s.nextSerial = none then s.refuseConvert n tag c .serialExhausted
      else if m = .update ∧ s.exclusivePending w then s.refuseConvert n tag c .conversionDeadlock
      else s.upgrade n tag c w held m limit := by
  rw [State.convertHeld, hkind]
  exact if_neg Bool.false_ne_true

theorem exclusivePending_iff : s.exclusivePending w = true ↔ ∃ d ∈ (s.entry w).converts, s.wantedMode d = some .exclusive := by
  simp [State.exclusivePending]

/-- A refusal of a CONVERT that has begun carries the claim's handle and held mode (R55). -/
theorem refuseConvert_begun (hs : s.namesClaim ch h c b o) (ha : (s.chan ch).state = .active) :
    (s.begun ch b.session o).refuseConvert ch tag c st =
      (s.renewed b.session o).answered ch ⟨.convert, tag, st, .claimMode h b.state.heldMode⟩ := by
  obtain ⟨-, rfl, hb, -, -⟩ := hs
  rw [State.refuseConvert, begun_hand _ ha, heldMode_of_claimAt (s := s.begun ch b.session o) hb]
  rfl

/-- A CONVERT past the handle check that is refused with its handle and mode: the session is renewed, and nothing else
changes. -/
theorem exec_convert_refused (hn : s.nextRequest ch = some (.convert ch tag h m.code present invalidate limit value))
    (hch : ch ≠ 0) (hs : s.namesClaim ch h c b o) (hflags : ¬(present = true ∧ invalidate = true))
    (hr : (s.begun ch b.session o).convertChecked ch tag c b m present invalidate limit value =
      (s.begun ch b.session o).refuseConvert ch tag c st) :
    exec (.convert ch tag h m.code present invalidate limit value) s =
      .next ((s.renewed b.session o).answered ch ⟨.convert, tag, st, .claimMode h b.state.heldMode⟩) := by
  rw [exec_convert hn hch hs hflags, hr, refuseConvert_begun hs (nextRequest_active hn)]

end

/-- Settles O18: the access check is before all others, and the checks of a HELD claim follow the pair of modes. -/
theorem convertRefused : Obligations.ConvertRefused := by
  intro s ch tag h c b o m p i limit value hn hch hs hflags
  refine ⟨fun hraises haccess => ?_, fun hfull => ?_⟩
  · have haccess' : ((s.begun ch b.session o).chan ch).access.get (s.entry b.way).key.domain.toNat ≠ .full := by
      rwa [access_begun]
    rw [exec_convert hn hch hs hflags, State.convertChecked]
    rw [if_pos ⟨asksHigher_iff.mpr hraises, haccess'⟩, State.reply, begun_hand _ (nextRequest_active hn)]
  have hfull' (ha : b.state.asksHigher m = true) :
      ((s.begun ch b.session o).chan ch).access.get ((s.begun ch b.session o).entry b.way).key.domain.toNat = .full := by
    rw [access_begun]
    exact hfull (asksHigher_iff.mp ha)
  refine ⟨fun hst => exec_convert_refused hn hch hs hflags (convertChecked_waits hst hfull'), fun x hst => ?_⟩
  have hrefused (st : Status) (hr : (s.begun ch b.session o).convertHeld ch tag c b.way x m p i limit value =
      (s.begun ch b.session o).refuseConvert ch tag c st) := exec_convert_refused hn hch hs hflags
        ((convertChecked_held hst hfull').trans hr)
  refine ⟨fun hbad => hrefused _ (convertHeld_badConversion hbad), fun hne hsx => ?_⟩
  refine ⟨fun hpi hx => hrefused _ (convertHeld_badValue (not_or.mpr ⟨hne, hsx⟩) hx (by simpa using hpi)),
    fun hp hi => ?_⟩
  subst hp hi
  refine ⟨fun hm hserial => hrefused _ ?_, fun hm hx hpending => hrefused _ ?_⟩
  · subst hm
    obtain rfl : x = .update := by
      cases x
      exacts [absurd ⟨rfl, rfl⟩ hsx, rfl, absurd rfl hne]
    rw [convertHeld_upgrade rfl, if_pos ⟨rfl, hserial⟩]
  · subst hm hx
    rw [convertHeld_upgrade rfl, if_neg (by simp), if_pos ⟨rfl, exclusivePending_iff.mpr hpending⟩]

end Sys2Proof.Machine
end

section
/-! PROOFS. CONVERT downward (R56, R62), and U to X with a conversion from S to U pending (R57, R60). -/

namespace Sys2Proof.Machine

section
variable {s : State} {tag : ReqTag} {n c d w i : Nat} {b bd : Claim} {o : OpenSession} {e : Entry} {held m : Mode}
  {present invalidate : Bool} {limit : BitVec 16} {value : ValueWord} {wait : Wait}

/-! ### CONVERT downward (R56, R62) -/

/-- Claim `c`, whose fields are `b`, HELD in the lower mode `m` at its way with entry `e`, its noticed flag clear and its
CONTENTION notice gone from channel `n` (R42, R56, R147). -/
def State.lowered (s : State) (n c : Nat) (b : Claim) (e : Entry) (m : Mode) : State :=
  { s.dropNotices n (Notice.contentionOf c) with
    claims := s.claims.set c ⟨(s.claim c).tag, some { b with state := .held m, noticed := false }⟩
    ways := s.ways.set b.way (.active e) }

/-- A claim made HELD in mode `m` and cleared of its notice, its entry changed by `f` then. -/
theorem lowered_eq (f : Entry → Entry) (hb : s.claimAt c = some b) (ho : (s.session b.session).state = .opened o)
    (hw : s.way b.way = .active e) :
    ((s.modClaim c fun b => { b with state := .held m }).clearNoticed c).modEntry b.way f =
      s.lowered o.channel c b (f e) m := by
  rw [modClaim_some _ hb, clearNoticed_eq (b := { b with state := .held m }) (o := o) (by simp) (by simpa using ho)]
  have hway : ((s.setClaim c ⟨(s.claim c).tag, some { b with state := .held m }⟩).unnoticed o.channel c
    { b with state := .held m }).way b.way = .active e := hw
  rw [modEntry_active f hway]
  simp [State.unnoticed, State.lowered, State.setClaim, State.setWay, State.claim, State.dropNotices, State.setChan, State.chan]

/-- The flags of a downgrade write the value on leaving X, and a downgrade from U has none (R62). -/
theorem downgrade_eq (hb : s.claimAt c = some b) (ho : (s.session b.session).state = .opened o)
    (hw : s.way b.way = .active e) (hflags : held = .exclusive ∨ (present = false ∧ invalidate = false)) :
    s.downgrade n tag c b.way held m present invalidate value =
      ((s.lowered o.channel c b { e with value := e.value.written present invalidate value } m).hand n
        ⟨.convert, tag, .ok, .claimMode (s.claimHandle c) (some m)⟩).finish b.way := by
  have hhandle (e : Entry) : (s.lowered o.channel c b e m).claimHandle c = s.claimHandle c := by
    simp [State.lowered, State.claimHandle, State.claim]
  rw [State.downgrade]
  by_cases hx : held = .exclusive
  · rw [if_pos hx, lowered_eq _ hb ho hw, hhandle]
  · obtain ⟨rfl, rfl⟩ := hflags.resolve_left hx
    have hkept : (s.modClaim c fun b => { b with state := .held m }).clearNoticed c = s.lowered o.channel c b e m := by
      have hway : ((s.modClaim c fun b => { b with state := .held m }).clearNoticed c).way b.way = .active e := by
        rw [State.way_clearNoticed, State.way_modClaim, hw]
      rw [← modEntry_id hway, lowered_eq _ hb ho hw]
    rw [if_neg hx, hkept, hhandle]
    rfl

/-- A claim lowered after the request of its channel has begun, or before. -/
theorem lowered_begun (n : Nat) : (s.begun n i o).lowered n c b e m = ((s.renewed i o).lowered n c b e m).popRequest n := by
  simp [State.begun, State.lowered, State.popRequest, State.renewed, State.dropNotices, State.setChan, State.setSession,
    State.chan, State.claim, State.session]

theorem chan_lowered (s : State) (n c : Nat) (b : Claim) (e : Entry) (m : Mode) (k : Nat) :
    ((s.lowered n c b e m).chan k).state = (s.chan k).state := chan_withRaised s n c b.way b e m k

end

/-- Settles O15: the pair of modes is a downgrade, which asks for no access and takes effect at once. -/
theorem convertDowngrades : Obligations.ConvertDowngrades := by
  intro s ch tag h c b o held m p i limit value e hn hch hs hst hpair hflags hw
  obtain ⟨-, rfl, hb, -, hchan⟩ := id hs
  have hkind : conversionKind held m = .downgrade := by
    rcases hpair with ⟨rfl, hm⟩ | ⟨rfl, rfl, -, -⟩
    · cases m
      exacts [rfl, rfl, absurd rfl hm]
    · rfl
  have hlower : ¬b.state.asksHigher m = true := by
    rw [hst]
    rcases hpair with ⟨rfl, -⟩ | ⟨rfl, rfl, -, -⟩
    · cases m <;> exact Bool.false_ne_true
    · exact Bool.false_ne_true
  have hwrite : held = .exclusive ∨ (p = false ∧ i = false) := hpair.imp And.left fun h => h.2.2
  have hvalue : ¬((p || i) && decide (held ≠ .exclusive)) = true := by
    rcases hwrite with rfl | ⟨rfl, rfl⟩ <;> simp
  have hactive : (((s.renewed b.session o).lowered ch c b { e with value := e.value.written p i value } m).chan ch).state =
      .active := by
    rw [chan_lowered]
    exact nextRequest_active hn
  have hdown := downgrade_eq (s := s.begun ch b.session o) (n := ch) (tag := tag) (m := m) (value := value) hb
    (session_begun ..) hw hwrite
  rw [show (o.renewedAt s.now).channel = ch from hchan, lowered_begun, popRequest_hand _ hactive] at hdown
  rw [exec_convert hn hch hs hflags, convertChecked_held hst fun h => absurd h hlower, State.convertHeld, hkind]
  dsimp only
  rw [if_neg hvalue, hdown]
  rfl

section
variable {s : State} {tag : ReqTag} {n c d w i : Nat} {b bd : Claim} {o : OpenSession} {e : Entry} {x m : Mode}
  {wait wait' : Wait} {r : Reply}

/-! ### A pending conversion failed (R60) -/

theorem claimChannel_reverted (hb : s.claimAt c = some b) (k : Nat) :
    (s.reverted c b e x).claimChannel k = s.claimChannel k := by
  unfold State.claimChannel
  by_cases hk : k = c
  · subst hk
    rw [hb]
    simp [State.reverted, State.claimAt, State.claim, State.session]
  · simp [State.reverted, State.claimAt, State.claim, State.session, hk]

theorem reverted_handClaim (hb : s.claimAt c = some b) :
    (s.handClaim d r).reverted c b e x = (s.reverted c b e x).handClaim d r := by
  rw [State.handClaim, State.handClaim, claimChannel_reverted hb]
  cases s.claimChannel d with
  | none => rfl
  | some k => exact reverted_hand ..

/-- A CONVERTING claim whose wait ends is HELD at its old mode, and its CONVERT is answered on whatever channel its session
is (R60). -/
theorem endWait_reverts {st : Status} (hb : s.claimAt c = some b) (hst : b.state = .converting x m wait)
    (hw : s.way b.way = .active e) :
    s.endWait c st = (s.reverted c b e x).handClaim c ⟨.convert, wait.tag, st, .claimMode (s.claimHandle c) (some x)⟩ := by
  rw [State.endWait, hb]
  dsimp only
  rw [hst]
  dsimp only
  rw [State.answer, hb]
  dsimp only
  rw [hst]
  dsimp only
  rw [endConversion_eq (by rwa [claimAt_handClaim]) hst (by rwa [way_handClaim]), reverted_handClaim hb]
  rfl

/-- The one pending conversion, to U, is the one that fails (R60). -/
theorem failConversions_one (hw : s.way w = .active e) (hc : e.converts = [d]) (hd : s.wantedMode d = some .update) :
    s.failConversions w = s.endWait d .conversionDeadlock := by
  rw [State.failConversions, entry_of_active hw, hc, List.filter_cons_of_pos (by simpa using hd)]
  rfl

/-- With the claims that it fails out of the way, a blocked conversion to X is refused or made to wait (R57, R60). -/
theorem upgrade_exclusive_blocked {t : State} {held : Mode} {limit : BitVec 16} (hfail : s.failConversions w = t)
    (hblocked : t.upgradeGrantable c w .exclusive = false) :
    s.upgrade n tag c w held .exclusive limit =
      if limit = 0 then (t.refuseConvert n tag c .conflict).finish w
      else ((t.modClaim c fun b => { b with state := .converting held .exclusive ⟨tag, waitDeadline t.now limit⟩ }).modEntry w
        fun e => { e with converts := e.converts ++ [c] }).finish w := by
  rw [State.upgrade, if_pos rfl, hfail]
  exact if_neg (Bool.eq_false_iff.mp hblocked)

/-- A claim made to wait in the convert queue (R57). -/
theorem converting_eq (hb : s.claimAt c = some b) (hw : s.way w = .active e) :
    ((s.modClaim c fun b => { b with state := .converting x m wait }).modEntry w fun e =>
        { e with converts := e.converts ++ [c] }) =
      { s with
        claims := s.claims.set c ⟨(s.claim c).tag, some { b with state := .converting x m wait }⟩
        ways := s.ways.set w (.active { e with converts := e.converts ++ [c] }) } := by
  rw [modClaim_some _ hb, modEntry_active _ (by simpa using hw)]
  rfl

/-- What a U to X conversion finds at way `w` once it has failed claim `d`, the one of its convert queue (R60): the request is
taken from channel `n` and its session `i` renewed, and `d` is HELD at S with its CONVERT answered. -/
def State.upgradeFailed (s : State) (n i : Nat) (o : OpenSession) (d w : Nat) (bd : Claim) (wait : Wait) (e : Entry) :
    State :=
  ({ s.renewed i o with
    claims := s.claims.set d ⟨(s.claim d).tag, some { bd with state := .held .shared }⟩
    ways := s.ways.set w (.active { e with converts := [] }) }.popRequest n).handClaim d
      ⟨.convert, wait.tag, .conversionDeadlock, .claimMode (s.claimHandle d) (some .shared)⟩

theorem failConversions_begun (hw : s.way w = .active e) (hc : e.converts = [d]) (hbd : s.claimAt d = some bd)
    (hbw : bd.way = w) (hst : bd.state = .converting .shared .update wait) :
    (s.begun n i o).failConversions w = s.upgradeFailed n i o d w bd wait e := by
  subst hbw
  have hwanted : s.wantedMode d = some .update := by
    rw [State.wantedMode, hbd, Option.bind_some, hst]
    rfl
  have hempty : [d].filter (· != d) = [] := by simp
  rw [failConversions_one (s := s.begun n i o) hw hc hwanted, endWait_reverts (s := s.begun n i o) hbd hst hw,
    State.reverted, hc, hempty]
  rfl

theorem way_upgradeFailed : (s.upgradeFailed n i o d w bd wait e).way w = .active { e with converts := [] } := by
  rw [State.upgradeFailed, way_handClaim]
  simp [State.way]

theorem claim_upgradeFailed (k : Nat) : (s.upgradeFailed n i o d w bd wait e).claim k =
    if k = d then ⟨(s.claim d).tag, some { bd with state := .held .shared }⟩ else s.claim k := by
  rw [State.upgradeFailed, State.handClaim_frame]
  exact Table.get_set ..

theorem claim_upgradeFailed_of_ne (hne : d ≠ c) : (s.upgradeFailed n i o d w bd wait e).claim c = s.claim c := by
  rw [claim_upgradeFailed, if_neg hne.symm]

theorem now_upgradeFailed : (s.upgradeFailed n i o d w bd wait e).now = s.now := by
  rw [State.upgradeFailed, State.handClaim_frame]
  rfl

/-- The failed claim, still a holder in S, blocks the conversion to X (R32, R60). -/
theorem upgradeGrantable_upgradeFailed (hd : d ∈ e.holders) (hne : d ≠ c) :
    (s.upgradeFailed n i o d w bd wait e).upgradeGrantable c w .exclusive = false := by
  refine upgradeGrantable_eq_false way_upgradeFailed (.inr ⟨d, hd, hne, .shared, ?_, rfl⟩)
  rw [State.heldMode, State.claimAt, claim_upgradeFailed, if_pos rfl]
  rfl

theorem upgradeFailed_converting (hb : s.claimAt c = some b) (hne : d ≠ c) :
    (((s.upgradeFailed n i o d w bd wait e).modClaim c fun b => { b with state := .converting x m wait' }).modEntry w fun e =>
        { e with converts := e.converts ++ [c] }) = { s.upgradeFailed n i o d w bd wait e with
      claims := (s.upgradeFailed n i o d w bd wait e).claims.set c
        ⟨(s.claim c).tag, some { b with state := .converting x m wait' }⟩
      ways := s.ways.set w (.active { e with converts := [c] }) } := by
  have hways (y : Way) : (s.upgradeFailed n i o d w bd wait e).ways.set w y = s.ways.set w y := by
    rw [State.upgradeFailed, State.handClaim_frame]
    exact Table.set_set ..
  rw [converting_eq (b := b) (by rw [State.claimAt, claim_upgradeFailed_of_ne hne]; exact hb) way_upgradeFailed,
    claim_upgradeFailed_of_ne hne, hways]
  rfl

end

/-- Settles O17: the failed conversion leaves its claim a holder in S, which X is incompatible with. -/
theorem convertFailsPendingUpgrade : Obligations.ConvertFailsPendingUpgrade := by
  intro s ch tag h c b o limit value e d bd wait hn hch hs hst hw hfull hserial hc hd hne hbd hway hdst failed
  obtain ⟨-, rfl, hb, -, -⟩ := id hs
  have haccess : ((s.begun ch b.session o).chan ch).access.get ((s.begun ch b.session o).entry b.way).key.domain.toNat =
      .full := by
    rw [access_begun, entry_of_active (s := s.begun ch b.session o) hw, hfull]
  have hupgrade := upgrade_exclusive_blocked (n := ch) (tag := tag) (held := .update) (limit := limit)
    (failConversions_begun (n := ch) (i := b.session) (o := o) hw hc hbd hway hdst) (upgradeGrantable_upgradeFailed hd hne)
  rw [exec_convert hn hch hs (by simp), convertChecked_held hst fun _ => haccess, convertHeld_upgrade rfl,
    if_neg fun h => hserial h.2, if_neg (by simp), hupgrade]
  refine ⟨fun h0 => ?_, fun h0 => ?_⟩
  · rw [if_pos h0, State.refuseConvert, State.claimHandle, State.heldMode, State.claimAt,
      claim_upgradeFailed_of_ne hne, show (s.claim c).claim = some b from hb, Option.bind_some, hst]
    rfl
  · rw [if_neg h0, upgradeFailed_converting hb hne, now_upgradeFailed, waitDeadline_eq]
    rfl

end Sys2Proof.Machine
end

section
/-! PROOFS. CANCEL (R58, R65): which claim it finds, and the end of that claim's wait. -/

namespace Sys2Proof.Machine

section
variable {s : State} {ch : Fin 16} {tag : ReqTag} {h : SessionHandle} {i c w : Nat} {o : OpenSession} {k : Key} {e : Entry}
  {b : Claim} {x m : Mode} {wait : Wait}

/-! ### The claim that a CANCEL finds (R65) -/

/-- The one claim of session `i` at an entry is found there. -/
theorem claimThere_of_unique (hc : c ∈ (s.entry w).holders ++ (s.entry w).waits) (hb : s.claimAt c = some b)
    (hi : b.session = i)
    (hone : ∀ d ∈ (s.entry w).holders ++ (s.entry w).waits, d ≠ c → ∀ x, s.claimAt d = some x → x.session ≠ i) :
    s.claimThere i w = some c := by
  cases hf : s.claimThere i w with
  | none =>
    have hmiss := List.find?_eq_none.mp hf c hc
    simp [hb, hi] at hmiss
  | some d =>
    by_contra hne
    have hfound := List.find?_some hf
    cases hx : s.claimAt d with
    | none => simp [hx] at hfound
    | some x =>
      simp only [hx, beq_iff_eq] at hfound
      exact hone d (List.mem_of_find?_eq_some hf) (fun hdc => hne (congrArg some hdc)) x hx hfound

theorem claimThere_none
    (hnone : ∀ d ∈ (s.entry w).holders ++ (s.entry w).waits, ∀ x, s.claimAt d = some x → x.session ≠ i) :
    s.claimThere i w = none := by
  refine List.find?_eq_none.mpr fun d hd => ?_
  cases hx : s.claimAt d with
  | none => simp
  | some x => simpa using hnone d hd x hx

theorem isHeld_eq (hb : s.claimAt c = some b) : s.isHeld c = b.state.wait.isNone := by
  rw [State.isHeld, hb]
  rfl

/-! ### A CANCEL past its checks -/

/-- A CANCEL in range that names an OPEN session of its client channel goes on to its kind's part (R45 to R48). -/
theorem exec_cancel (hn : s.nextRequest ch = some (.cancel ch tag h (k.domain.setWidth 8) k.name)) (hch : ch ≠ 0)
    (hs : s.namesOpen ch h i o) :
    exec (.cancel ch tag h (k.domain.setWidth 8) k.name) s = .next ((s.begun ch i o).cancelChecked ch tag i k) := by
  obtain ⟨-, -, -, ho, -⟩ := id hs
  have h0 : (ch : Nat) ≠ 0 := fun h => hch (Fin.ext h)
  rw [exec, execCancel, takeRequest_next hn, State.cancel, if_neg h0, keyOf_key]
  dsimp only
  rw [checkSession_popRequest, checkSession_opens hs (.inr rfl)]
  dsimp only
  rw [renew_opened (s := s.popRequest ch) ho]
  rfl

/-- Of a claim that waits CANCEL ends the wait and answers OK (R65). -/
theorem cancelChecked_waits (hl : s.lookup k = some w) (hc : s.claimThere i w = some c) (hb : s.claimAt c = some b)
    (hst : b.state.wait = some wait) (n : Nat) :
    s.cancelChecked n tag i k = ((s.endWait c .cancelled).hand n ⟨.cancel, tag, .ok, .header⟩).finish w := by
  have hheld : ¬s.isHeld c = true := by simp [isHeld_eq hb, hst]
  rw [State.cancelChecked, hl]
  dsimp only
  rw [hc]
  exact if_neg hheld

/-- Of a HELD claim CANCEL is answered TOO_LATE with its handle and mode (R65). -/
theorem cancelChecked_held (hl : s.lookup k = some w) (hc : s.claimThere i w = some c) (hb : s.claimAt c = some b)
    (hst : b.state = .held m) (n : Nat) :
    s.cancelChecked n tag i k = (s.hand n ⟨.cancel, tag, .tooLate, .claimMode (s.claimHandle c) (some m)⟩).finish w := by
  have hheld : s.isHeld c = true := by
    rw [isHeld_eq hb, hst]
    rfl
  rw [State.cancelChecked, hl]
  dsimp only
  rw [hc]
  dsimp only
  rw [if_pos hheld, heldMode_of_claimAt hb, hst]
  rfl

theorem cancelChecked_unclaimed (hl : s.lookup k = some w) (hc : s.claimThere i w = none) (n : Nat) :
    s.cancelChecked n tag i k = (s.hand n ⟨.cancel, tag, .notClaimed, .header⟩).finish w := by
  rw [State.cancelChecked, hl]
  dsimp only
  rw [hc]
  rfl

theorem cancelChecked_absent (hl : s.lookup k = none) (n : Nat) :
    s.cancelChecked n tag i k = s.hand n ⟨.cancel, tag, .notClaimed, .header⟩ := by
  rw [State.cancelChecked, hl]
  rfl

/-! ### The wait that a CANCEL ends (R58, R65) -/

/-- The WAITING claim of a request's own session freed and its ACQUIRE answered. -/
theorem endWait_begun_waiting {st : Status} (ha : (s.chan ch).state = .active) (hch : o.channel = ch)
    (hb : s.claimAt c = some b) (hst : b.state = .waiting m wait) (hw : s.way b.way = .active e) :
    (s.begun ch b.session o).endWait c st =
      (s.withFreedClaim b.session (o.renewedAt s.now) c b.way e).answered ch ⟨.acquire, wait.tag, st, .header⟩ := by
  have hactive : ((s.withFreedClaim b.session (o.renewedAt s.now) c b.way e).chan ch).state = .active := by
    rwa [chan_withFreedClaim]
  rw [endWait_waiting (s := s.begun ch b.session o) hb hst (session_begun ..) hw,
    show (o.renewedAt s.now).channel = ch from hch, withFreedClaim_begun (o' := o.renewedAt s.now) ch hch,
    popRequest_hand _ hactive]

/-- The CONVERTING claim of a request's own session HELD at its old mode again and its CONVERT answered. -/
theorem endWait_begun_converting {st : Status} (ha : (s.chan ch).state = .active) (hch : o.channel = ch)
    (hb : s.claimAt c = some b) (hst : b.state = .converting x m wait) (hw : s.way b.way = .active e) :
    (s.begun ch b.session o).endWait c st = ((s.renewed b.session o).reverted c b e x).answered ch
      ⟨.convert, wait.tag, st, .claimMode (s.claimHandle c) (some x)⟩ := by
  rw [endWait_converting (s := s.begun ch b.session o) hb hst (session_begun ..) hw,
    show (o.renewedAt s.now).channel = ch from hch]
  exact popRequest_hand (s := (s.renewed b.session o).reverted c b e x) _ ha

end

/-- Settles O20: the claim that CANCEL finds at the key's entry decides, and where there is none the lookup does. -/
theorem cancelEndsWait : Obligations.CancelEndsWait := by
  refine ⟨fun s ch tag h i o k w e c b hn hch hs hl hw hc hb hi hbw hone => ?_, fun s ch tag h i o k hn hch hs => ?_⟩
  · subst hi hbw
    obtain ⟨-, -, -, -, hchan⟩ := id hs
    have hthere : (s.begun ch b.session o).claimThere b.session b.way = some c := by
      have hentry : (s.begun ch b.session o).entry b.way = e := entry_of_active hw
      exact claimThere_of_unique (by rwa [hentry]) hb rfl (by rw [hentry]; exact hone)
    have hcancel {wait : Wait} (hst : b.state.wait = some wait) :=
      cancelChecked_waits (s := s.begun ch b.session o) (tag := tag) hl hthere hb hst ch
    rw [exec_cancel hn hch hs]
    refine ⟨fun m wait hst => ?_, fun x m wait hst => ?_⟩
    · rw [hcancel (wait := wait) (by rw [hst]; rfl), endWait_begun_waiting (nextRequest_active hn) hchan hb hst hw]
    · rw [hcancel (wait := wait) (by rw [hst]; rfl), endWait_begun_converting (nextRequest_active hn) hchan hb hst hw]
      rfl
  · rw [exec_cancel hn hch hs]
    have ha := nextRequest_active hn
    refine ⟨fun hl => ?_, fun w hl => ⟨fun hnone => ?_, fun c b m hc hb hi hst hone => ?_⟩⟩
    · rw [cancelChecked_absent (s := s.begun ch i o) hl, begun_hand _ ha]
    · rw [cancelChecked_unclaimed (s := s.begun ch i o) hl (claimThere_none hnone), begun_hand _ ha]
    · have hthere : (s.begun ch i o).claimThere i w = some c :=
        claimThere_of_unique (List.mem_append_left _ hc) hb hi hone
      rw [cancelChecked_held (s := s.begun ch i o) hl hthere hb hst, begun_hand _ ha]
      rfl

end Sys2Proof.Machine
end

section
/-! PROOFS. What a command leaves of the session records that it cannot reach (R75, R81, R84, R90), and of the arbiter's last grant
(R125): every command but a tick, a reset and a fetch's issue, taken apart into core moves and changes of reached records. -/

namespace Sys2Proof.Machine

/-! ### What is reached -/

/-- From `s` to `t` only the session records of `own` are opened, renewed, lapsed or freed, and the arbiter grants nothing. -/
structure Reaches (own : Nat → Prop) (s t : State) : Prop where
  granted : t.lastGranted = s.lastGranted
  others : ∀ i, ¬own i → (s.session i).untouched (t.session i)

section
variable {own : Nat → Prop} {s t u : State} {ch i : Nat} {tag : ReqTag}

theorem Reaches.of_tables (hg : t.lastGranted = s.lastGranted) (hs : t.sessions = s.sessions) : Reaches own s t :=
  ⟨hg, fun i _ => by rw [State.session, State.session, hs]; exact untouched_refl _⟩

theorem Reaches.refl (s : State) : Reaches own s s := .of_tables rfl rfl

theorem Reaches.trans (h : Reaches own s t) (h' : Reaches own t u) : Reaches own s u :=
  ⟨h'.granted.trans h.granted, fun i hi => untouched_trans (h.others i hi) (h'.others i hi)⟩

theorem core_lastGranted (h : Core s t) : t.lastGranted = s.lastGranted := by
  induction h with
  | refl => rfl
  | tail _ h ih =>
    rw [← ih]
    cases h <;> simp

theorem Reaches.of_core (h : Core s t) : Reaches own s t := ⟨core_lastGranted h, fun i _ => core_untouched h i⟩

theorem Reaches.after (h : Reaches own s t) (h' : Core t u) : Reaches own s u := h.trans (.of_core h')

theorem Reaches.setChan (s : State) (ch : Nat) (x : Channel) : Reaches own s (s.setChan ch x) := .of_tables rfl rfl

theorem Reaches.setSession (s : State) {i : Nat} (hi : own i) (r : SessionRec) : Reaches own s (s.setSession i r) := by
  refine ⟨rfl, fun j hj => ?_⟩
  rw [State.session_setSession, if_neg (by rintro rfl; exact hj hi)]
  exact untouched_refl _

theorem Reaches.modOpen (s : State) {i : Nat} (hi : own i) (f : OpenSession → OpenSession) : Reaches own s (s.modOpen i f) := by
  unfold State.modOpen
  split
  exacts [.setSession s hi _, .refl s, .refl s]

theorem Reaches.renew (s : State) {i : Nat} (hi : own i) : Reaches own s (s.renew i) := .modOpen s hi _

theorem Reaches.lapse (s : State) {i : Nat} (hi : own i) (r : LapseReason) : Reaches own s (s.lapse i r) := by
  rcases ho : (s.session i).state with _ | o | l
  · rw [State.lapse, ho]
    exact .refl s
  · exact (Reaches.setSession s hi _).after (core_lapse r ho)
  · rw [State.lapse, ho]
    exact .refl s

theorem Reaches.close (s : State) {i : Nat} (hi : own i) : Reaches own s (s.close i) := by
  unfold State.close
  split
  · exact (Reaches.of_core (core_closing s _)).trans (.setSession _ hi _)
  · exact (Reaches.of_core (.one (.drop ..))).trans (.setSession _ hi _)
  · exact .refl s

/-! ### Client requests -/

theorem Reaches.openSession (hs : ∀ i, (s.session i).channel = none → own i) {p : BitVec 16} {n : Bool} :
    Reaches own s (s.openSession ch tag p n) := by
  unfold State.openSession
  split_ifs
  iterate 3 exact .of_core (core_reply ..)
  split
  · rename_i i hi
    have hown : own i := hs i (by rw [SessionRec.channel, (searchFreeSession_some hi).2])
    exact (Reaches.setSession s hown _).after (core_hand ..)
  · exact .of_core (core_reply ..)

theorem Reaches.closeSession (hs : ∀ i, (s.session i).channel = some ch → own i) {session : SessionHandle} :
    Reaches own s (s.closeSession ch tag session) := by
  unfold State.closeSession
  split
  · exact .of_core (core_reply ..)
  · split
    · exact .of_core (core_reply ..)
    · rename_i i hc
      obtain ⟨-, l, hl, hch⟩ := checkSession_lapsed hc
      have hown : own i := hs i (by rw [SessionRec.channel, hl]; simpa [eq_comm] using hch)
      exact (Reaches.close s hown).after (core_reply ..)
    · rename_i i hc
      exact (Reaches.close s (hs i (checkSession_channel hc))).after (core_reply ..)

theorem Reaches.keepalive (hs : ∀ i, (s.session i).channel = some ch → own i) {session : SessionHandle} :
    Reaches own s (s.keepalive ch tag session) := by
  unfold State.keepalive
  split
  · exact .of_core (core_reply ..)
  · split
    · exact .of_core (core_reply ..)
    · exact .of_core (core_reply ..)
    · rename_i i hc
      exact (Reaches.renew s (hs i (checkSession_channel hc))).after (core_hand ..)

theorem Reaches.allocate (s : State) {i : Nat} (hi : own i) (c w : Nat) (st : ClaimState) :
    Reaches own s (s.allocate c i w st) := by
  refine ⟨by simp, fun j hj => ?_⟩
  rw [State.session_allocate, if_neg (by rintro rfl; exact hj hi)]
  exact untouched_refl _

theorem Reaches.grant (s : State) (k : Kind) (c w : Nat) (m : Mode) : Reaches own s (s.grant k tag c w m) :=
  (Reaches.of_tables (by simp) (by rw [State.hold_frame])).after (core_handClaim (s.hold c w m) c _)

theorem Reaches.acquireChecked (hi : own i) {idx : Nat} {k : Key} {m : Mode} {limit : BitVec 16} :
    Reaches own s (s.acquireChecked idx ch tag i k m limit) := by
  unfold State.acquireChecked
  split_ifs
  iterate 5 exact .of_core (core_reply ..)
  split
  · rename_i w t hp
    refine Reaches.trans (t := t) (.of_tables (by rw [State.place_frame s hp]) (by rw [State.place_frame s hp])) ?_
    unfold State.acquireAtEntry
    split_ifs
    · exact ((Reaches.allocate t hi ..).trans (.grant ..)).after (core_finish ..)
    · exact .of_core ((core_reply ..).trans (core_finish ..))
    · exact (Reaches.allocate t hi ..).after (core_finish ..)
  · exact .of_core (core_reply ..)

theorem Reaches.acquire (hs : ∀ i, (s.session i).channel = some ch → own i) {idx : Nat} {session : SessionHandle}
    {domain mode : BitVec 8} {limit : BitVec 16} {name : Name} :
    Reaches own s (s.acquire idx ch tag session domain mode limit name) := by
  unfold State.acquire
  split
  · exact .of_core (core_reply ..)
  · split
    · split
      · exact .of_core (core_reply ..)
      · exact .of_core (core_reply ..)
      · rename_i i hc
        have hown := hs i (checkSession_channel hc)
        exact (Reaches.renew s hown).trans (.acquireChecked hown)
    · exact .of_core (core_reply ..)
    · exact .of_core (core_reply ..)

theorem Reaches.upgrade (s : State) {c w : Nat} {held m : Mode} {limit : BitVec 16} :
    Reaches own s (s.upgrade ch tag c w held m limit) := by
  unfold State.upgrade
  dsimp only
  refine Reaches.trans (t := if m = .exclusive then s.failConversions w else s) ?_ ?_
  · split
    exacts [.of_core (core_failConversions ..), .refl s]
  generalize (if m = .exclusive then s.failConversions w else s) = u
  split_ifs
  · exact ((Reaches.of_core (core_clearNoticed u c)).trans (.grant ..)).after (core_finish ..)
  · exact .of_core ((core_hand ..).trans (core_finish ..))
  · exact Reaches.after (.of_tables (by simp) (by simp)) (core_finish ..)

theorem Reaches.downgrade (s : State) {c w : Nat} {held m : Mode} {p v : Bool} {value : ValueWord} :
    Reaches own s (s.downgrade ch tag c w held m p v value) := by
  unfold State.downgrade
  dsimp only
  refine Reaches.trans (t := s.modClaim c fun b => { b with state := .held m }) (.of_tables (by simp) (by simp)) ?_
  refine .of_core ((core_clearNoticed _ c).trans (.trans ?_ ((core_hand ..).trans (core_finish ..))))
  split_ifs
  exacts [.single (.valued w (fun x => x.written p v value) (written_absent p v value)), .refl]

theorem Reaches.convertChecked (s : State) {c : Nat} {b : Claim} {m : Mode} {p v : Bool} {limit : BitVec 16} {value : ValueWord} :
    Reaches own s (s.convertChecked ch tag c b m p v limit value) := by
  have hrefused (st : Status) : Reaches own s (s.refuseConvert ch tag c st) := .of_core (core_hand ..)
  unfold State.convertChecked
  split
  · exact .of_core (core_reply ..)
  · split
    · unfold State.convertHeld
      split
      · exact hrefused _
      · split
        exacts [hrefused _, .downgrade s]
      · split_ifs
        exacts [hrefused _, hrefused _, hrefused _, .upgrade s]
    · exact hrefused _
    · exact hrefused _

theorem Reaches.convert (hs : ∀ i, (s.session i).channel = some ch → own i) {claim : ClaimHandle} {mode : BitVec 8} {p v : Bool}
    {limit : BitVec 16} {value : ValueWord} : Reaches own s (s.convert ch tag claim mode p v limit value) := by
  have hrefused (st : Status) : Reaches own s (s.reply ch .convert tag st) := .of_core (core_reply ..)
  unfold State.convert
  split
  · exact hrefused _
  · split
    · split
      · exact hrefused _
      · split
        · split
          · exact (Reaches.renew s (claim_own hs ‹_› ‹_›)).trans (.convertChecked _)
          · exact hrefused _
        · exact hrefused _
    · exact hrefused _

theorem Reaches.release (hs : ∀ i, (s.session i).channel = some ch → own i) {claim : ClaimHandle} {p v : Bool}
    {value : ValueWord} : Reaches own s (s.release ch tag claim p v value) := by
  have hrefused (st : Status) : Reaches own s (s.reply ch .release tag st) := .of_core (core_reply ..)
  unfold State.release
  split
  · exact hrefused _
  · split
    · exact hrefused _
    · split
      · split
        · exact (Reaches.renew s (claim_own hs ‹_› ‹_›)).after core_releaseChecked
        · exact hrefused _
      · exact hrefused _

theorem Reaches.cancel (hs : ∀ i, (s.session i).channel = some ch → own i) {session : SessionHandle} {domain : BitVec 8}
    {name : Name} : Reaches own s (s.cancel ch tag session domain name) := by
  have hrefused (st : Status) : Reaches own s (s.reply ch .cancel tag st) := .of_core (core_reply ..)
  unfold State.cancel
  split
  · exact hrefused _
  · split
    · split
      · exact hrefused _
      · exact hrefused _
      · exact (Reaches.renew s (hs _ (checkSession_channel ‹_›))).after core_cancelChecked
    · exact hrefused _

theorem Reaches.checkFence (hs : ∀ i, (s.session i).channel = some ch → own i) {session : SessionHandle} {domain : BitVec 8}
    {name : Name} {serial : Serial} : Reaches own s (s.checkFence ch tag session domain name serial) := by
  have hrefused (st : Status) : Reaches own s (s.reply ch .checkFence tag st) := .of_core (core_reply ..)
  unfold State.checkFence
  split
  · exact hrefused _
  · split
    · split
      · exact .of_core core_checkFenceChecked
      · split
        · exact hrefused _
        · exact hrefused _
        · exact (Reaches.renew s (hs _ (checkSession_channel ‹_›))).after core_checkFenceChecked
    · exact hrefused _

/-! ### Faults and teardowns -/

theorem Reaches.fault (s : State) {cause : Cause} : Reaches own s (s.fault ch cause) := by
  unfold State.fault
  split
  · exact .of_tables (by simp [State.faultManagement]) (by simp [State.faultManagement])
  · exact (Reaches.setChan s ch _).after (core_faultClient ..)

theorem Reaches.beginTeardown (s : State) (hs : ∀ i, own i) : Reaches own s (s.beginTeardown ch) := by
  have hgranted : (s.emptied ch).lastGranted = s.lastGranted := core_lastGranted (s := s.closing ch) (core_emptied s ch)
  exact ⟨by rw [beginTeardown_eq, freeSessions_frame, hgranted], fun i hi => absurd (hs i) hi⟩

theorem Reaches.endTeardownIfDrained (s : State) : Reaches own s (s.endTeardownIfDrained ch) := by
  unfold State.endTeardownIfDrained
  split_ifs
  · unfold State.endTeardown
    dsimp only
    split
    · rename_i tag' _
      have hoff : Reaches own s { s.setChan ch Channel.reset with teardownReplies := s.teardownReplies.set ch none } :=
        .of_tables rfl rfl
      exact hoff.after (core_reply _ 0 .teardownChannel tag' .ok)
    · exact .setChan ..
  · exact .refl s

theorem Reaches.teardown (s : State) (hs : ∀ i, own i) : Reaches own s (s.teardown ch tag) := by
  have hbegun : Reaches own s ((s.dropNotices 0 (Notice.faultOf ch)).beginTeardown ch) :=
    (Reaches.of_core (.one (.drop ..))).trans (.beginTeardown _ hs)
  unfold State.teardown
  dsimp only
  generalize (s.dropNotices 0 (Notice.faultOf ch)).beginTeardown ch = u at hbegun
  have hkept : Reaches own u { u with teardownReplies := u.teardownReplies.set ch (some tag) } := .of_tables rfl rfl
  exact (hbegun.trans hkept).trans (.endTeardownIfDrained _)

/-! ### Management requests -/

theorem Reaches.setupChannel (s : State) {target v : BitVec 8} {a b : BitVec 16} {x y : HostAddr} {m n : BitVec 16} :
    Reaches own s (s.setupChannel ch tag target v a b x y m n) := by
  have hrefused (st : Status) : Reaches own s (s.reply ch .setupChannel tag st) := .of_core (core_reply ..)
  unfold State.setupChannel
  split
  · exact hrefused _
  · split
    · split
      iterate 3 exact hrefused _
      exact (Reaches.setChan s _ _).after (core_reply ..)
    · exact hrefused _
    · exact hrefused _

theorem Reaches.teardownChannel (s : State) (hs : ch = 0 → ∀ i, own i) {target : BitVec 8} :
    Reaches own s (s.teardownChannel ch tag target) := by
  have hrefused (st : Status) : Reaches own s (s.reply ch .teardownChannel tag st) := .of_core (core_reply ..)
  unfold State.teardownChannel
  split
  · exact hrefused _
  · rename_i h0
    have hown := hs (not_not.mp h0)
    split
    · split
      exacts [hrefused _, hrefused _, .teardown s hown, .teardown s hown]
    · exact hrefused _

theorem Reaches.restartChannel (s : State) {target : BitVec 8} : Reaches own s (s.restartChannel ch tag target) := by
  have hrefused (st : Status) : Reaches own s (s.reply ch .restartChannel tag st) := .of_core (core_reply ..)
  unfold State.restartChannel
  split
  · exact hrefused _
  · split
    · rename_i n _
      split
      iterate 3 exact hrefused _
      split_ifs
      · exact hrefused _
      · have hrestart : Reaches own s (s.restart n) :=
          ((Reaches.setChan s n _).after (.one (.drop ..))).after (core_foldl _ core_retell _ _)
        exact hrestart.after (core_reply ..)
    · exact hrefused _

theorem Reaches.setAccess (s : State) {target domain level : BitVec 8} : Reaches own s (s.setAccess ch tag target domain level) := by
  have hrefused (st : Status) : Reaches own s (s.reply ch .setAccess tag st) := .of_core (core_reply ..)
  have hset (t d : Nat) (l : Level) : Reaches own s (s.setLevel ch t tag d l) :=
    (Reaches.setChan s _ _).after (core_hand ..)
  unfold State.setAccess
  split
  · exact hrefused _
  · split
    · split
      · exact hrefused _
      · split
        exacts [hrefused _, hrefused _, hset _ _ _, hset _ _ _]
    · exact hrefused _
    · exact hrefused _

theorem Reaches.setLimits (s : State) {target : BitVec 8} {a b : BitVec 16} : Reaches own s (s.setLimits ch tag target a b) := by
  have hrefused (st : Status) : Reaches own s (s.reply ch .setLimits tag st) := .of_core (core_reply ..)
  have hset (t x y : Nat) : Reaches own s (s.limit ch t tag x y) := by
    unfold State.limit
    split_ifs
    exacts [hrefused _, (Reaches.setChan s _ _).after (core_reply ..)]
  unfold State.setLimits
  split
  · exact hrefused _
  · split
    · split
      · exact hrefused _
      · split
        exacts [hrefused _, hrefused _, hset _ _ _, hset _ _ _]
    · exact hrefused _

theorem Reaches.setTick (s : State) {p : BitVec 32} : Reaches own s (s.setTick ch tag p) := by
  unfold State.setTick
  split_ifs
  · exact .of_core (core_reply ..)
  · exact .of_core (core_reply ..)
  · have hset : Reaches own s { s with requestedPeriod := some p } := .of_tables rfl rfl
    exact hset.after (core_reply ..)

theorem Reaches.evictSession (s : State) (hs : ch = 0 → ∀ i, own i) {session : SessionHandle} :
    Reaches own s (s.evictSession ch tag session) := by
  unfold State.evictSession
  split
  · exact .of_core (core_reply ..)
  · rename_i h0
    split
    · exact .of_core (core_reply ..)
    · exact .of_core (core_reply ..)
    · exact (Reaches.lapse s (hs (not_not.mp h0) _) _).after (core_reply ..)

theorem Reaches.discardResource (s : State) {domain : BitVec 8} {name : Name} :
    Reaches own s (s.discardResource ch tag domain name) := by
  have hrefused (st : Status) : Reaches own s (s.reply ch .discardResource tag st) := .of_core (core_reply ..)
  unfold State.discardResource
  split
  · exact hrefused _
  · split
    · split
      · rename_i w _
        have hleft : Reaches own s (s.leaveDormant w .free) := .of_tables rfl rfl
        split
        exacts [hleft.after (core_reply ..), hrefused _, hrefused _]
      · exact hrefused _
    · exact hrefused _

/-- A request reaches the FREE records and those of its channel, and from channel 0 every record. -/
theorem Reaches.handled {c : Instr} {ch : Fin 16} (hc : c.requestChannel = some ch)
    (hfree : ∀ i, (s.session i).channel = none → own i) (hs : ∀ i, (s.session i).channel = some ch.val → own i)
    (hall : ch.val = 0 → ∀ i, own i) : Reaches own s (s.handled c) := by
  cases c <;> cases hc
  case openSession => exact .openSession hfree
  case closeSession => exact .closeSession hs
  case keepalive => exact .keepalive hs
  case acquire => exact .acquire hs
  case convert => exact .convert hs
  case release => exact .release hs
  case cancel => exact .cancel hs
  case checkFence => exact .checkFence hs
  case unknownKindRequest => exact .of_core (core_reply ..)
  case setupChannel => exact .setupChannel s
  case teardownChannel => exact .teardownChannel s hall
  case restartChannel => exact .restartChannel s
  case setAccess => exact .setAccess s
  case setLimits => exact .setLimits s
  case setTick => exact .setTick s
  case evictSession => exact .evictSession s hall
  case discardResource => exact .discardResource s
  case inspectResource => exact .of_core core_inspectResource
  case inspectSession => exact .of_core core_inspectSession
  case inspectDevice => exact .of_core core_inspectDevice

/-! ### Registers and DMA -/

theorem Reaches.writeReqProd (s : State) {index : Nat} : Reaches own s (s.writeReqProd ch index) := by
  unfold State.writeReqProd
  split
  · split
    exacts [.setChan .., .fault s]
  exacts [.setChan .., .refl s, .refl s]

theorem Reaches.noticeTurns (hch : (s.chan ch).state = .active) (fuel : Nat) :
    Reaches own s (repeatTurn (·.noticeTurn ch) fuel s) := by
  induction fuel generalizing s with
  | zero => exact .refl s
  | succ n ih =>
    unfold repeatTurn
    split
    · rename_i t ht
      have hcore := core_noticeTurn ht hch
      exact (Reaches.of_core hcore).trans (ih (((core_frame hcore).1 ch).trans hch))
    · exact .refl s

theorem Reaches.consume (hch : (s.chan ch).state = .active) {index : Nat} {arm : Bool} : Reaches own s (s.consume ch index arm) := by
  have hturns (fuel : Nat) : Reaches own s
      (repeatTurn (·.noticeTurn ch) fuel (s.setChan ch { s.chan ch with rplCons := index })) :=
    (Reaches.setChan ..).trans (.noticeTurns (by simpa using hch) fuel)
  unfold State.consume
  dsimp only
  split
  · unfold State.arm
    split
    · exact ((hturns _).after (core_sendInterrupt ..)).trans (.setChan ..)
    · exact (hturns _).trans (.setChan ..)
  · exact hturns _

theorem Reaches.writeRplCons (s : State) {index : Nat} {arm : Bool} : Reaches own s (s.writeRplCons ch index arm) := by
  unfold State.writeRplCons
  split
  · split
    exacts [.consume ‹_›, .fault s]
  exacts [.setChan .., .refl s, .refl s]

theorem Reaches.badSetup (s : State) : Reaches own s s.badSetup := by
  unfold State.badSetup State.setupInterrupt
  split_ifs <;> exact .of_tables rfl rfl

theorem Reaches.writeMgmtControl (s : State) (v : BitVec 32) : Reaches own s (s.writeMgmtControl v) := by
  unfold State.writeMgmtControl State.enable State.restartManagement
  split
  · split_ifs
    exacts [.setChan .., .badSetup s, .refl s]
  · split_ifs
    exacts [.refl s, .setChan .., .badSetup s, .refl s]
  exacts [.refl s, .refl s]

theorem Reaches.completeWrite (s : State) : Reaches own s (s.completeWrite ch) := by
  unfold State.completeWrite
  dsimp only
  split
  · exact .of_tables (by simp) (by simp)
  · exact .of_tables (by simp) (by simp)

/-! ### Every command -/

/-- A request that is not next to be taken is passed over (log entry 2). -/
theorem exec_not_next {c : Instr} {ch : Fin 16} (hc : c.requestChannel = some ch) (hn : s.nextRequest ch ≠ some c) :
    exec c s = .next s := by
  have htaken : exec c s = takeRequest ch c (fun u => u.handled c) s := by cases c <;> cases hc <;> rfl
  rw [htaken]
  exact if_neg hn

theorem Reaches.exec {c : Instr} (h : exec c s = .next t) (htick : c ≠ .tick) (hreset : c ≠ .deviceReset)
    (hstart : c ≠ .startupEnd) (hissue : c ≠ .fetchIssue) : Reaches (c.reaches s) s t := by
  rcases hc : c.requestChannel with _ | ch
  · cases c
    case reqProdWrite =>
      cases h
      split_ifs
      exacts [.writeReqProd s, .refl s]
    case rplConsWrite =>
      cases h
      split_ifs
      exacts [.writeRplCons s, .refl s]
    case mgmtControlEnable | mgmtControlRestart =>
      cases h
      split_ifs
      exacts [.writeMgmtControl s _, .refl s]
    case mgmtRingRegisterWrite =>
      cases h
      split_ifs
      exacts [.of_tables rfl rfl, .refl s]
    case otherRegisterWrite =>
      cases h
      exact .refl s
    case keepaliveExpiry =>
      cases h
      split_ifs
      exacts [.lapse s (.inr ⟨_, rfl, rfl⟩) _, .refl s]
    case waitExpiry =>
      cases h
      unfold State.expireWait
      split_ifs
      · split
        exacts [.of_core ((core_endWait ..).trans (core_finish ..)), .refl s]
      · exact .refl s
    case fetchCompletion =>
      cases h
      split
      · split_ifs
        exacts [.refl s, .setChan .., (Reaches.setChan ..).trans (.endTeardownIfDrained _)]
      exacts [.refl s, .refl s]
    case fetchError =>
      cases h
      split
      · split_ifs
        exacts [(Reaches.setChan ..).trans (.fault _), (Reaches.setChan ..).trans (.endTeardownIfDrained _)]
      exacts [.refl s, .refl s]
    case writeCompletion =>
      cases h
      split_ifs
      exacts [.refl s, .completeWrite s, (Reaches.setChan ..).trans (.endTeardownIfDrained _)]
    case writeError =>
      cases h
      split_ifs
      exacts [.refl s, (Reaches.setChan ..).trans (.fault _), (Reaches.setChan ..).trans (.endTeardownIfDrained _)]
    case teardownEnd =>
      cases h
      exact .endTeardownIfDrained s
    all_goals contradiction
  · by_cases hn : s.nextRequest ch = some c
    · rw [exec_request hc hn] at h
      cases h
      refine (Reaches.setChan s ch _).trans (.handled hc (fun i hi => ?_) (fun i hi => ?_) fun h0 i => ?_)
      · exact .inl ⟨ch, hc, .inr (.inl hi)⟩
      · exact .inl ⟨ch, hc, .inr (.inr hi)⟩
      · exact .inl ⟨ch, hc, .inl (Fin.ext h0)⟩
    · rw [exec_not_next hc hn] at h
      cases h
      exact .refl s

/-- A fetch's issue leaves the session records. -/
theorem session_fetchIssue (h : exec .fetchIssue s = .next t) (i : Nat) : t.session i = s.session i := by
  cases h
  split <;> rfl

end

/-- Settles O60: what a command does to the records that it does not reach is done by core moves. -/
theorem sessionsIsolated : Obligations.SessionsIsolated := by
  intro s t c rest i hpending h htick hreset hstart hreach
  have hexec : exec c { s with pending := rest } = .next t := by rwa [step, hpending] at h
  by_cases hissue : c = .fetchIssue
  · subst hissue
    rw [session_fetchIssue hexec]
    exact untouched_refl _
  · exact (Reaches.exec hexec htick hreset hstart hissue).others i hreach

end Sys2Proof.Machine
end

section
/-! PROOFS. OPEN_SESSION (R76), KEEPALIVE (R78, R79), and the SESSION_LAPSED notice of a session without claims (R82, R83, R142). -/

namespace Sys2Proof.Machine

/-! ### OPEN_SESSION (R76) -/

section
variable {s : State} {ch : Fin 16} {tag : ReqTag} {period : BitVec 16} {notices : Bool} {i : Nat}

theorem popChan_sessionLimit (s : State) (ch n : Nat) :
    ((s.popRequest ch).chan n).sessionLimit = (s.chan n).sessionLimit := by
  rw [chan_popRequest]
  split_ifs with h
  · rw [h]
    rfl
  · rfl

/-- An OPEN_SESSION on a client channel with a period looks for a record if the channel is below its session limit (R76). -/
theorem exec_openSession (hn : s.nextRequest ch = some (.openSession ch tag period notices)) (hch : ch ≠ 0) (hp : period ≠ 0) :
    exec (.openSession ch tag period notices) s = .next
      (if (s.chan ch).sessionLimit ≤ s.sessionCount ch then s.answered ch ⟨.openSession, tag, .quota, .header⟩
      else match (s.popRequest ch).searchFreeSession 512 0 with
        | some i => ((s.popRequest ch).openAt i ch period notices).hand ch
            ⟨.openSession, tag, .ok, .sessionTick (s.sessionHandle i) (s.now + period.setWidth 32)⟩
        | none => s.answered ch ⟨.openSession, tag, .noRecord, .header⟩) := by
  have h0 : (ch : Nat) ≠ 0 := fun h => hch (Fin.ext h)
  have ha := nextRequest_active hn
  rw [exec, execOpenSession, takeRequest_next hn, State.openSession, if_neg h0, if_neg hp, popChan_sessionLimit,
    State.reply, State.reply, popRequest_hand _ ha, popRequest_hand _ ha]
  rfl

end

/-- Settles O5: the session limit decides first, and then what the search for a FREE record finds. -/
theorem openSessionOpens : Obligations.OpenSessionOpens := by
  intro s ch tag period notices hn hch hp
  rw [exec_openSession hn hch hp]
  refine ⟨fun hlimit => ?_, fun hlimit => by rw [if_pos hlimit]⟩
  rw [if_neg (Nat.not_le.mpr hlimit)]
  refine ⟨fun i hi hfree hfirst => ?_, fun hnone => ?_⟩
  · have hfound : (s.popRequest ch).searchFreeSession 512 0 = some i :=
      searchFreeSession_eq (s := s.popRequest ch) hfree 512 0 (Nat.zero_le i) (by omega) fun j _ hj => hfirst j hj
    rw [hfound]
    exact congrArg _ (popRequest_setSession_hand (nextRequest_active hn))
  · have hfound : (s.popRequest ch).searchFreeSession 512 0 = none :=
      searchFreeSession_none (s := s.popRequest ch) 512 0 fun j _ hj => hnone j (by omega)
    rw [hfound]

/-! ### KEEPALIVE (R78, R79) -/

/-- Settles O6: the handle names the OPEN session, which is renewed before the reply reads its deadline. -/
theorem keepaliveRenews : Obligations.KeepaliveRenews := by
  intro s ch tag h i o hn hch hs
  have h0 : (ch : Nat) ≠ 0 := fun h => hch (Fin.ext h)
  have hcheck := checkSession_opens hs (.inr rfl)
  obtain ⟨-, hhandle, -, ho, -⟩ := hs
  have hrenew : (s.popRequest ch).renew i = s.begun ch i o := renew_opened ho
  have htick : (s.begun ch i o).deadlineTick i = s.now + o.period.setWidth 32 := by
    rw [State.deadlineTick, session_begun]
    rfl
  rw [exec, execKeepalive, takeRequest_next hn, State.keepalive, if_neg h0, checkSession_popRequest, hcheck]
  dsimp only
  rw [hrenew, htick, hhandle]
  exact congrArg _ (begun_hand _ (nextRequest_active hn))

/-! ### The SESSION_LAPSED notice (R82, R83, R142) -/

section
variable {s : State} {ch i : Nat}

theorem raise_stopped (n : Notice) (h : (s.chan ch).state ≠ .active) : s.raise ch n = s := if_neg h

theorem raise_written (n : Notice) (ha : (s.chan ch).state = .active) (hn : (s.chan ch).notices = [])
    (hfree : 1 ≤ (s.chan ch).unreserved) : s.raise ch n = s.setChan ch ((s.chan ch).issue n.bytes) := by
  rw [State.raise]
  exact (if_pos ha).trans (if_pos ⟨hn, hfree⟩)

theorem raise_kept (n : Notice) (ha : (s.chan ch).state = .active)
    (h : (s.chan ch).notices ≠ [] ∨ (s.chan ch).unreserved = 0) :
    s.raise ch n = (s.setChan ch { s.chan ch with notices := (s.chan ch).notices ++ [n] }).markLapse n true := by
  rw [State.raise]
  refine (if_pos ha).trans (if_neg ?_)
  rintro ⟨hn, hfree⟩
  exact h.elim (fun h => h hn) fun h => by omega

theorem markLapse_lapsed {l : LapsedSession} (hl : (s.session i).state = .lapsed l) (h : SessionHandle) (r : LapseReason)
    (now : Tick) (k : Nat) (v : Bool) : s.markLapse (.sessionLapsed i h r now k) v =
      s.setSession i ⟨(s.session i).tag, .lapsed { l with noticePending := v }⟩ := by
  rw [State.markLapse, hl]

/-- A due deadline delivered to its OPEN session (R81, R101). -/
theorem exec_keepaliveExpiry {i : Fin 512} {o : OpenSession} (ho : (s.session i).state = .opened o)
    (hdue : o.deadline.due = true) : exec (.keepaliveExpiry i) s = .next (s.lapse i .expired) := by
  have hkeep : s.keepaliveDue i = true := by
    rw [State.keepaliveDue, ho]
    exact hdue
  rw [exec, execKeepaliveExpiry, if_pos hkeep]

end

/-- Settles O10: the lapse of a session without claims is the change of its record and the raising of the notice. -/
theorem sessionLapsedNotice : Obligations.SessionLapsedNotice := by
  intro s i o ho hdue hclaims notice lapsed c
  have hlapse : s.lapse i .expired = (lapsed false).raise o.channel notice := by
    rw [State.lapse, ho]
    dsimp only
    rw [hclaims]
    rfl
  rw [exec_keepaliveExpiry ho hdue, hlapse]
  refine ⟨fun ha hn hfree => ?_, fun ha h => ?_, fun ha => ?_⟩
  · rw [raise_written (s := lapsed false) notice ha hn hfree]
    rfl
  · have hmark := markLapse_lapsed (i := i) (l := ⟨o.channel, .expired, false⟩)
      (s := (lapsed false).setChan o.channel { c with notices := c.notices ++ [notice] })
      (by rw [State.session_setChan, State.session_setSession, if_pos rfl])
      (s.sessionHandle i) .expired s.now 0 true
    rw [raise_kept (s := lapsed false) notice ha h]
    refine congrArg _ (hmark.trans ?_)
    simp [lapsed, State.setSession, State.setChan, State.session]
  · rw [raise_stopped (s := lapsed false) notice ha]

end Sys2Proof.Machine
end

section
/-! PROOFS. The lapse of a session (R81 to R84): what it leaves of a sole holder of X and of a session's one claim. -/

namespace Sys2Proof.Machine

section
variable {s t : State} {w c k i : Nat} {b : Claim} {o : OpenSession} {l : LapsedSession} {e x : Entry}

/-! ### A withdrawal that makes an X value INVALID (R82, R91) -/

/-- The answer that a withdrawal gives, if it gives one (R82, R91). -/
def State.answerSome (s : State) (c : Nat) (st : Option Status) : State :=
  match st with
  | some x => s.answer c x false
  | none => s

@[simp] theorem claimAt_answerSome (s : State) (c k : Nat) (st : Option Status) :
    (s.answerSome c st).claimAt k = s.claimAt k := by
  cases st
  exacts [rfl, claimAt_answer ..]

@[simp] theorem way_answerSome (s : State) (c k : Nat) (st : Option Status) : (s.answerSome c st).way k = s.way k := by
  cases st
  exacts [rfl, way_answer ..]

/-- The entry of a claim that is withdrawn, the value with it where the claim held X (R82, R91). -/
def Entry.withdrawn (c : Nat) (b : Claim) (e : Entry) : Entry :=
  { e.without c with value := if b.state = .held .exclusive then e.value.invalidated else e.value }

/-- A withdrawal frees the claim behind its answer and takes the value of an X holder's entry with it (R82, R91). -/
theorem withdraw_true (hb : s.claimAt c = some b) (st : Option Status) : s.withdraw c st true =
    if b.state = .held .exclusive then
      ((s.answerSome c st).freeClaim c).modEntry b.way fun e => { e with value := e.value.invalidated }
    else (s.answerSome c st).freeClaim c := by
  unfold State.withdraw
  rw [hb]
  simp only [true_and]
  rfl

theorem withdraw_free (hc : s.claimAt c = none) (st : Option Status) (v : Bool) : s.withdraw c st v = s := by
  unfold State.withdraw
  rw [hc]

theorem claimAt_withdraw_ne (hk : c ≠ k) (st : Option Status) : (s.withdraw k st true).claimAt c = s.claimAt c := by
  rcases hb : s.claimAt k with _ | b
  · rw [withdraw_free hb]
  · rw [withdraw_true hb]
    split_ifs <;> simp [State.claimAt_freeClaim, hk]

theorem way_withdraw (hb : s.claimAt c = some b) (st : Option Status) (k : Nat) : (s.withdraw c st true).way k =
    if k = b.way then (s.way k).update (Entry.withdrawn c b) else s.way k := by
  have hfreed : ((s.answerSome c st).freeClaim c).way k = if k = b.way then (s.way k).update (Entry.without c) else s.way k := by
    rw [State.way_freeClaim, claimAt_answerSome, hb, way_answerSome]
    simp [eq_comm]
  rw [withdraw_true hb]
  by_cases hx : b.state = .held .exclusive
  · have hw : ((s.answerSome c st).freeClaim c).way b.way = (s.way b.way).update (Entry.without c) := by
      rw [State.way_freeClaim, claimAt_answerSome, hb, way_answerSome, if_pos ⟨b, rfl, rfl⟩]
    rw [if_pos hx, State.way_modEntry', hfreed]
    split_ifs with hk
    · rw [hw, hk]
      cases s.way b.way <;> simp [Way.update, Entry.withdrawn, Entry.without, hx]
    · rfl
  · rw [if_neg hx, hfreed]
    split_ifs
    · cases s.way k <;> simp [Way.update, Entry.withdrawn, Entry.without, hx]
    · rfl

/-! ### A sole holder of X whose value goes with it (R82, R91, R114) -/

/-- What is left of the entry of a sole holder of X once that claim is withdrawn by a lapse or a teardown (R82, R91). -/
def Entry.vacated (e : Entry) : Entry := { e with holders := [], value := e.value.invalidated }

@[simp] theorem ValueBlock.invalidated_invalidated (v : ValueBlock) : v.invalidated.invalidated = v.invalidated := by
  cases v <;> rfl

/-- Claim `c` alone holds X at way `w`, and its withdrawal leaves the entry `x`. -/
def State.holdsFor (s : State) (c w : Nat) (x : Entry) : Prop := ∃ e, SoleHolder s c w e ∧ e.vacated = x

/-- The ACTIVE way `w` has the entry `x`, which no claim and no VALID value is left of. -/
structure Vacant (s : State) (w : Nat) (x : Entry) : Prop where
  active : s.way w = .active x
  holders : x.holders = []
  converts : x.converts = []
  waits : x.waits = []
  invalid : x.value.invalidated = x.value

theorem holdsFor_finish (h : s.holdsFor c w x) (w' : Nat) : (s.finish w').holdsFor c w x := by
  obtain ⟨e, he, hx⟩ := h
  exact ⟨e, he.finish w', hx⟩

/-- Another claim withdrawn leaves the sole holder, and of a VALID value no more than its withdrawal will. -/
theorem holdsFor_withdraw (h : s.holdsFor c w x) (hk : k ≠ c) (st : Option Status) : (s.withdraw k st true).holdsFor c w x := by
  obtain ⟨e, he, hx⟩ := h
  rcases hb : s.claimAt k with _ | b
  · rw [withdraw_free hb]
    exact ⟨e, he, hx⟩
  have hwithout : e.without k = e := by
    rw [Entry.without, filter_ne_of_not_mem (by simp [he.holders, hk]), filter_ne_of_not_mem (by simp [he.converts]),
      filter_ne_of_not_mem (by simp [he.waits])]
  have hheld := he.held
  rw [← claimAt_withdraw_ne hk.symm st] at hheld
  by_cases hw : w = b.way
  · refine ⟨e.withdrawn k b, ⟨?_, ?_, ?_, ?_, hheld⟩, ?_⟩
    · rw [way_withdraw hb, if_pos hw, he.active]
      rfl
    · rw [Entry.withdrawn, hwithout, he.holders]
    · rw [Entry.withdrawn, hwithout, he.converts]
    · rw [Entry.withdrawn, hwithout, he.waits]
    · rw [← hx, Entry.withdrawn, hwithout, Entry.vacated, Entry.vacated]
      split_ifs <;> simp
  · refine ⟨e, ⟨?_, he.holders, he.converts, he.waits, hheld⟩, hx⟩
    rw [way_withdraw hb, if_neg hw, he.active]

/-- The sole holder withdrawn leaves its way without claims, its value INVALID. -/
theorem vacant_withdraw_holder (h : s.holdsFor c w x) (st : Option Status) : Vacant (s.withdraw c st true) w x := by
  obtain ⟨e, he, rfl⟩ := h
  obtain ⟨b, hb, hst, rfl⟩ := he.held
  refine ⟨?_, rfl, he.converts, he.waits, e.value.invalidated_invalidated⟩
  rw [way_withdraw hb, if_pos rfl, he.active, Way.update]
  simp [Entry.withdrawn, Entry.without, Entry.vacated, hst, he.holders, he.converts, he.waits]

theorem Vacant.withdraw (h : Vacant s w x) (k : Nat) (st : Option Status) : Vacant (s.withdraw k st true) w x := by
  refine ⟨?_, h.holders, h.converts, h.waits, h.invalid⟩
  rcases hb : s.claimAt k with _ | b
  · rw [withdraw_free hb]
    exact h.active
  · have hsame : x.withdrawn k b = x := by
      obtain ⟨-, hh, hc, hw, hv⟩ := h
      cases x
      simp_all [Entry.withdrawn, Entry.without]
    rw [way_withdraw hb, h.active, Way.update, hsame, ite_self]

/-- The end of the event at a way without claims whose value is not ABSENT makes it DORMANT (R15). -/
theorem Vacant.finish (h : Vacant s w x) (hv : x.value ≠ .absent) : (s.finish w).way w = .dormant x := by
  rw [finish_of_empty h.active h.converts h.waits h.holders, if_neg hv, State.way_setDormant, State.way_setWay, if_pos rfl]

/-- A lapse leaves the way of a sole X holder among its claims DORMANT, its value INVALID (R82). -/
theorem way_lapsed {claims : List Nat} (h : s.holdsFor c w x) (hv : x.value ≠ .absent) (st : Status) (hc : c ∈ claims) :
    (claims.foldl (fun s c => s.withdrawPart c (some st) true) s).way w = .dormant x := by
  induction claims generalizing s with
  | nil => cases hc
  | cons k claims ih =>
    rw [List.foldl_cons]
    by_cases hk : k = c
    · subst hk
      obtain ⟨e, he, -⟩ := id h
      obtain ⟨b, hb, -, hw⟩ := he.held
      refine core_dormant (core_foldl _ (fun _ _ => core_withdrawPart ..) claims _) ?_
      rw [State.withdrawPart, hb]
      dsimp only
      rw [hw]
      exact (vacant_withdraw_holder h _).finish hv
    · refine ih ?_ ((List.mem_cons.mp hc).resolve_left (Ne.symm hk))
      rw [State.withdrawPart]
      split
      exacts [holdsFor_finish (holdsFor_withdraw h hk _) _, h]

/-! ### The record LAPSED, and the session's one claim (R82, R83) -/

/-- Session record `i`, whose fields were `o`, LAPSED (R82). -/
def State.lapsing (s : State) (i : Nat) (o : OpenSession) (reason : LapseReason) : State :=
  s.setSession i ⟨(s.session i).tag, .lapsed ⟨o.channel, reason, false⟩⟩

/-- Claim `c` of the session freed after its record is LAPSED, at way `w` with entry `e`. -/
def State.withLapsedClaim (s : State) (i : Nat) (o : OpenSession) (c w : Nat) (e : Entry) (reason : LapseReason) : State :=
  { s.withFreedClaim i o c w e with
    sessions := s.sessions.set i ⟨(s.session i).tag, .lapsed ⟨o.channel, reason, false⟩⟩ }

section
variable {reason : LapseReason}

/-- The state of a lapse behind the withdrawals, before the notice is raised (R82). -/
def State.lapsedFor (s : State) (i : Nat) (o : OpenSession) (reason : LapseReason) : State :=
  o.claims.foldl (fun s c => s.withdrawPart c (some .lapsed) true) (s.lapsing i o reason)

theorem lapse_opened (ho : (s.session i).state = .opened o) (reason : LapseReason) : s.lapse i reason =
    (s.lapsedFor i o reason).raise o.channel
      (.sessionLapsed i (s.sessionHandle i) reason s.now o.claims.length) := by
  rw [State.lapse, ho]
  rfl

theorem freeClaim_lapsing (hb : s.claimAt c = some b) (hw : s.way b.way = .active e) :
    (s.lapsing b.session o reason).freeClaim c = s.withLapsedClaim b.session o c b.way e reason := by
  have hlapsed : ((s.lapsing b.session o reason).session b.session).state = .lapsed ⟨o.channel, reason, false⟩ := by
    rw [State.lapsing, State.session_setSession, if_pos rfl]
  have hdrop : (s.lapsing b.session o reason).dropContention c =
      (s.lapsing b.session o reason).dropNotices o.channel (Notice.contentionOf c) := by
    rw [State.dropContention, State.claimChannel, show (s.lapsing b.session o reason).claimAt c = some b from hb,
      Option.bind_some, SessionRec.channel, hlapsed]
  have hopen (u : State) (f : OpenSession → OpenSession)
      (hu : (u.session b.session).state = .lapsed ⟨o.channel, reason, false⟩) : u.modOpen b.session f = u := by
    rw [State.modOpen, hu]
  rw [State.freeClaim, show (s.lapsing b.session o reason).claimAt c = some b from hb]
  dsimp only
  rw [hdrop, modEntry_active (e := e) _ (by simpa [State.lapsing] using hw), hopen _ _ (by simpa using hlapsed)]
  rfl

theorem withLapsedClaim_hand (s : State) (ch : Nat) (r : Reply) (c w : Nat) :
    (s.hand ch r).withLapsedClaim i o c w e reason = (s.withLapsedClaim i o c w e reason).hand ch r := by
  unfold State.withLapsedClaim State.withFreedClaim
  rw [hand_dropNotices, hand_eq s ch r, hand_eq (s.dropNotices ..), hand_eq]
  rfl

theorem withLapsedClaim_value (s : State) (c w : Nat) (f : ValueBlock → ValueBlock) :
    (s.withLapsedClaim i o c w e reason).modEntry w (fun e => { e with value := f e.value }) =
      s.withLapsedClaim i o c w { e with value := f e.value } reason := by
  have hw : (s.withLapsedClaim i o c w e reason).way w = .active (e.without c) := by
    simp [State.withLapsedClaim, State.withFreedClaim, State.way, Entry.without]
  rw [modEntry_active _ hw]
  simp [State.withLapsedClaim, State.withFreedClaim, State.setWay, Entry.without]

/-- The answer to a claim's wait is the deferred reply handed to its channel, if it waits (R38, R82). -/
theorem answer_eq_handSome {ch : Nat} (hb : s.claimAt c = some b) (hch : s.claimChannel c = some ch) (st : Status) :
    s.answer c st false = s.handSome ch (b.deferred st) := by
  have hhand (r : Reply) : s.handClaim c r = s.hand ch r := by rw [State.handClaim, hch]
  rw [State.answer, hb, Claim.deferred]
  dsimp only
  rcases b.state with ⟨m, wait⟩ | m | ⟨m, m', wait⟩
  · exact hhand _
  · rfl
  · exact hhand _

/-- What the withdrawal of a lapsed session's claim leaves before the event at its entry ends (R82). -/
theorem withdraw_lapsing (hb : s.claimAt c = some b) (hw : s.way b.way = .active e) :
    (s.lapsing b.session o reason).withdraw c (some .lapsed) true =
      (s.withLapsedClaim b.session o c b.way
        { e with value := if b.state = .held .exclusive then e.value.invalidated else e.value } reason).handSome o.channel
          (b.deferred .lapsed) := by
  have hlb : (s.lapsing b.session o reason).claimAt c = some b := hb
  have hch : (s.lapsing b.session o reason).claimChannel c = some o.channel := by
    rw [State.claimChannel, hlb, Option.bind_some, State.lapsing, State.session_setSession, if_pos rfl]
    rfl
  have hfreed (r : Option Reply) : ((s.lapsing b.session o reason).handSome o.channel r).freeClaim c =
      (s.withLapsedClaim b.session o c b.way e reason).handSome o.channel r := by
    rcases r with _ | r
    · exact freeClaim_lapsing hb hw
    · have hhand : (s.lapsing b.session o reason).hand o.channel r = (s.hand o.channel r).lapsing b.session o reason := by
        rw [hand_eq, hand_eq]
        rfl
      rw [State.handSome, hhand, freeClaim_lapsing (s := s.hand o.channel r) (by simpa using hb) (by simpa using hw),
        withLapsedClaim_hand]
      rfl
  rw [withdraw_true hlb, State.answerSome, answer_eq_handSome hlb hch, hfreed]
  split_ifs with hx
  · rw [Claim.deferred, hx, State.handSome]
    exact withLapsedClaim_value s c b.way ValueBlock.invalidated
  · rfl

/-- What the lapse of a session leaves when it has one claim (R82, R83). -/
theorem lapse_alone (ho : (s.session i).state = .opened o) (h : s.onlyClaim i o c b e) :
    s.lapse i reason = s.lapsedAlone i o c b e reason := by
  obtain ⟨hl, hb, rfl, hw⟩ := h
  rw [lapse_opened ho, State.lapsedFor, hl, List.foldl_cons, List.foldl_nil, State.withdrawPart,
    show (s.lapsing b.session o reason).claimAt c = some b from hb]
  dsimp only
  rw [withdraw_lapsing hb hw]
  rfl

/-- Every claim of a session that lapses is freed, and its record is LAPSED with the reason (R82). -/
theorem lapsedTo_lapse (ho : (s.session i).state = .opened o) : s.lapsedTo (s.lapse i reason) i o reason := by
  have hcore : Core (s.lapsing i o reason) (s.lapse i reason) := core_lapse reason ho
  have hsession (j : Nat) : (s.lapsing i o reason).session j = if j = i then
      ⟨(s.session i).tag, .lapsed ⟨o.channel, reason, false⟩⟩ else s.session j := State.session_setSession ..
  refine ⟨?_, fun c hc => ?_, fun c hc => core_none hcore c hc, fun j hj => ?_,
    sameFrame_trans (sameFrame_setSession ..) (core_frame hcore)⟩
  · obtain ⟨htag, hstate⟩ := core_untouched hcore i
    rw [hsession, if_pos rfl] at htag hstate
    obtain ⟨p, hp⟩ := hstate
    exact ⟨p, congrArg₂ SessionRec.mk htag hp⟩
  · rw [lapse_opened ho, State.claimAt_raise]
    exact fold_none _ _ _ _ c hc
  · have := core_untouched hcore j
    rwa [hsession, if_neg hj] at this

/-- A lapse leaves the way of a sole holder of X with a VALID value DORMANT, the value INVALID (R82, R114). -/
theorem way_lapse_sole {v : ValueWord} (ho : (s.session i).state = .opened o) (h : s.soleExclusive o.claims c w e v) :
    (s.lapse i reason).way w = .dormant { e with holders := [], value := .invalid v } := by
  obtain ⟨hc, hheld, hway, hh, hcv, hq, hv⟩ := h
  have hvacated : e.vacated = { e with holders := [], value := .invalid v } := by rw [Entry.vacated, hv]; rfl
  have hsole : (s.lapsing i o reason).holdsFor c w { e with holders := [], value := .invalid v } :=
    ⟨e, ⟨hway, hh, hcv, hq, hheld⟩, hvacated⟩
  rw [lapse_opened ho, State.way_raise]
  exact way_lapsed hsole (by simp) .lapsed hc

/-- An EVICT_SESSION whose handle passes lapses the session it names (R75, R84). -/
theorem exec_evictSession {tag : ReqTag} {h : SessionHandle} {ch : Nat}
    (hn : s.nextRequest 0 = some (.evictSession 0 tag h)) (hs : s.namesOpen ch h i o) :
    exec (.evictSession 0 tag h) s =
      .next (((s.popRequest 0).lapse i .evicted).hand 0 ⟨.evictSession, tag, .ok, .header⟩) := by
  have hc : s.checkSession none h = .opened i := checkSession_opens hs (.inl rfl)
  rw [exec, execEvictSession, takeRequest_next hn, State.evictSession, if_neg (by simp), checkSession_popRequest, hc]
  rfl

end

end

/-- Settles O9: the lapse is core moves behind the LAPSED record; the withdrawal of a sole X holder empties its entry. -/
theorem keepaliveExpiryLapses : Obligations.KeepaliveExpiryLapses := by
  refine fun s i => ⟨fun o ho hdue => ⟨s.lapse i .expired, exec_keepaliveExpiry ho hdue, lapsedTo_lapse ho,
    fun c w e v hsole => way_lapse_sole ho hsole, fun c b e honly => lapse_alone ho honly⟩, fun hnot => ?_⟩
  have hkeep : s.keepaliveDue i = false := by
    rw [State.keepaliveDue]
    split
    exacts [hnot _ ‹_›, rfl, rfl]
  rw [exec, execKeepaliveExpiry, hkeep]
  rfl

/-- Settles O8: the lapse that O9 speaks of, on the state behind the request and with the OK after it. -/
theorem evictSessionLapses : Obligations.EvictSessionLapses := by
  intro s tag h ch i o hn hs
  obtain ⟨-, -, -, ho, -⟩ := id hs
  have ha := nextRequest_active hn
  have hpop : s.sameFrame (s.popRequest 0) :=
    ⟨fun n => by rw [chan_popRequest]; split_ifs with hc <;> simp [hc], rfl, rfl, rfl, rfl, rfl, rfl⟩
  obtain ⟨⟨p, hrecord⟩, hwithdrawn, hnone, hothers, hframe⟩ :=
    lapsedTo_lapse (s := s.popRequest 0) (reason := .evicted) ho
  refine ⟨_, exec_evictSession hn hs, ⟨⟨p, ?_⟩, fun c hc => ?_, fun c hc => ?_, fun j hj => ?_, ?_⟩, answeredLast_hand ?_,
    fun c b e honly => ?_⟩
  · rw [State.session_hand]
    exact hrecord
  · rw [State.claimAt_hand]
    exact hwithdrawn c hc
  · rw [State.claimAt_hand]
    exact hnone c hc
  · rw [State.session_hand]
    exact hothers j hj
  · exact sameFrame_trans (sameFrame_trans hpop hframe) (core_frame (core_hand ..))
  · exact ((hframe.1 0).trans (hpop.1 0)).trans ha
  · rw [lapse_alone (s := s.popRequest 0) ho honly]

end Sys2Proof.Machine
end

section
/-! PROOFS. Session handles and tick periods in every step (R75, R95, R96): a record changes its tag only when it is freed, and the
period in force only at a tick. -/

namespace Sys2Proof.Machine

section
variable {s t : State} {i : Nat} {allow : Nat → ChanState → ChanState → Prop} {own : Nat → Prop}

/-! ### One step -/

/-- What the queue's rest, a tick, a clearing and every other command keep is kept by every step. -/
theorem step_kept {P : State → Prop} (hrest : ∀ s rest, P s → P { s with pending := rest })
    (htick : ∀ s, P s → P s.tickOnce) (hcleared : ∀ s b, P (State.cleared s b))
    (hexec : ∀ c s t, c ≠ .tick → c ≠ .deviceReset → c ≠ .startupEnd → exec c s = .next t → P s → P t)
    (h : step s = .next t) (hs : P s) : P t := by
  rw [step] at h
  split at h
  · rename_i c rest hp
    have hs := hrest s rest hs
    by_cases ht : c = .tick
    · subst ht
      cases h
      split_ifs
      exacts [htick _ hs, hs]
    by_cases hr : c = .deviceReset
    · subst hr
      cases h
      exact hcleared ..
    by_cases hu : c = .startupEnd
    · subst hu
      cases h
      split_ifs
      exacts [hs, hcleared ..]
    exact hexec c _ t ht hr hu h hs
  · cases h
    exact hs

/-! ### Session handles (R75) -/

/-- The handle that names no session is the one of the last record with the last tag. -/
theorem eq_of_sessionHandle_eq_noSession {tag : BitVec 7} (hi : i < 512) (h : sessionHandle i tag = noSession) :
    i = 511 ∧ tag = 127 := by
  have hindex := congrArg sessionIndex h
  have htag := congrArg sessionTag h
  rw [sessionIndex_sessionHandle hi] at hindex
  rw [sessionTag_sessionHandle] at htag
  exact ⟨hindex, htag⟩

/-- The tag of a freed record gives no handle that names no session (R75). -/
theorem sessionHandle_nextSessionTag (hi : i < 512) (tag : BitVec 7) : sessionHandle i (nextSessionTag i tag) ≠ noSession := by
  intro h
  obtain ⟨rfl, ht⟩ := eq_of_sessionHandle_eq_noSession hi h
  rw [nextSessionTag] at ht
  split_ifs at ht with hlast
  · exact absurd ht (by decide)
  · have : tag = 126 := by bv_omega
    exact hlast ⟨rfl, this⟩

/-- A record that keeps its tag, or is freed, keeps off the handle that names no session. -/
theorem HandlesKept.of_tags (hs : HandlesKept s)
    (h : ∀ i, (t.session i).tag = (s.session i).tag ∨ ∃ tag, (t.session i).tag = nextSessionTag i tag) : HandlesKept t := by
  intro i hi
  rw [State.sessionHandle]
  rcases h i with heq | ⟨tag, heq⟩ <;> rw [heq]
  · exact hs i hi
  · exact sessionHandle_nextSessionTag hi tag

theorem tag_allocate (s : State) (c i w k : Nat) (st : ClaimState) :
    ((s.allocate c i w st).session k).tag = (s.session k).tag := by
  rw [State.session_allocate]
  split_ifs with hk
  · subst hk
    split <;> rfl
  · rfl

theorem tag_setSession {r : SessionRec} (h : r.tag = (s.session i).tag) (k : Nat) :
    ((s.setSession i r).session k).tag = (s.session k).tag := by
  rw [State.session_setSession]
  split_ifs with hk
  exacts [hk ▸ h, rfl]

theorem tag_renew (s : State) (i k : Nat) : ((s.renew i).session k).tag = (s.session k).tag := by
  unfold State.renew State.modOpen
  split
  exacts [tag_setSession (by rfl) k, rfl, rfl]

theorem HandlesKept.move (h : Move allow own s t) (hs : HandlesKept s) : HandlesKept t := by
  refine hs.of_tags fun k => ?_
  cases h
  case core h => exact .inl (coreMove_untouched h k).1
  case freeing i _ =>
    rw [State.freeSession, State.session_setSession]
    split_ifs with hk
    exacts [.inr ⟨(s.session i).tag, by rw [hk]⟩, .inl rfl]
  all_goals refine .inl ?_
  case opening => exact tag_setSession (by rfl) k
  case lapse => exact tag_setSession (by rfl) k
  case renewal => exact tag_renew ..
  case grantedAtOnce => rw [State.session_hold, tag_allocate]
  case queued => exact tag_allocate ..
  case teardownReply => rfl
  case registers => rfl
  case requestPeriod => rfl
  all_goals simp

theorem HandlesKept.moves (h : Moves allow own s t) (hs : HandlesKept s) : HandlesKept t := by
  induction h with
  | refl => exact hs
  | tail _ h ih => exact ih.move h

theorem session_tickOnce (s : State) (i : Nat) : s.tickOnce.session i = (s.session i).atTick (s.now + 1) := by
  rw [State.session, State.tickOnce, Table.get_map _ _ rfl, State.session]

theorem HandlesKept.tick (hs : HandlesKept s) : HandlesKept s.tickOnce := by
  refine hs.of_tags fun i => .inl ?_
  rw [session_tickOnce, SessionRec.atTick]
  split <;> rfl

/-! ### Tick periods (R95, R96) -/

theorem PeriodsKept.of_eq (hs : PeriodsKept s) (hp : t.period = s.period) (hr : t.requestedPeriod = s.requestedPeriod) :
    PeriodsKept t := by
  rw [PeriodsKept, hp, hr]
  exact hs

theorem PeriodsKept.move (h : Move allow own s t) (hs : PeriodsKept s) : PeriodsKept t := by
  cases h
  case core h =>
    obtain ⟨-, -, -, hp, hr, -⟩ := coreMove_frame h
    exact hs.of_eq hp hr
  case requestPeriod p hlow hhigh =>
    obtain ⟨h1, h2, -⟩ := hs
    exact ⟨h1, h2, fun q hq => Option.some.inj hq ▸ ⟨hlow, hhigh⟩⟩
  all_goals refine hs.of_eq ?_ ?_
  all_goals simp

theorem PeriodsKept.moves (h : Moves allow own s t) (hs : PeriodsKept s) : PeriodsKept t := by
  induction h with
  | refl => exact hs
  | tail _ h ih => exact ih.move h

theorem PeriodsKept.tick (hs : PeriodsKept s) : PeriodsKept s.tickOnce := by
  obtain ⟨h1, h2, h3⟩ := hs
  refine ⟨?_, ?_, fun p hp => by cases hp⟩ <;> rw [State.tickOnce] <;> dsimp only
  all_goals rcases hr : s.requestedPeriod with _ | p
  exacts [h1, (h3 p hr).1, h2, (h3 p hr).2]

end

/-- Settles O56: a step other than a tick and a reset is a chain of moves, and none of them makes the tag 127 of record 511. -/
theorem handlesAndPeriodsKeptByStep : Obligations.HandlesAndPeriodsKeptByStep := by
  refine fun s t => ⟨fun hs h => ?_, fun hs h => ?_⟩
  · exact step_kept (fun _ _ hs => hs) (fun _ => HandlesKept.tick) (fun _ _ => reset_handlesKept)
      (fun _ _ _ ht hr hu h hs => hs.moves (exec_moves h ht hr hu)) h hs
  · exact step_kept (fun _ _ hs => hs) (fun _ => PeriodsKept.tick) (fun _ _ => reset_periodsKept)
      (fun _ _ _ ht hr hu h hs => hs.moves (exec_moves h ht hr hu)) h hs

end Sys2Proof.Machine
end

section
/-! PROOFS. The channel records in every step: each stays in order (R119, R136, R139, R142, R153, R157), and the counts stay within
the limits (R77, R91). -/

namespace Sys2Proof.Machine

section
variable {s t : State} {n ch i c : Nat} {x y : Channel} {allow : Nat → ChanState → ChanState → Prop} {own : Nat → Prop}

/-! ### What core moves do to a channel record -/

/-- The shared parts leave the record `y` of `x`: an ACTIVE channel writes and keeps replies and notices; one that is not ACTIVE
only loses notices and its armed flag. -/
structure Channel.Serves (x y : Channel) : Prop where
  same : y = { x with writes := y.writes, phase := y.phase, owed := y.owed, notices := y.notices, armed := y.armed }
  armed : y.armed = x.armed ∨ y.armed = false
  quiet : x.state ≠ .active → y.writes = x.writes ∧ y.phase = x.phase ∧ y.owed = x.owed ∧ y.notices.Sublist x.notices

theorem Channel.Serves.refl (x : Channel) : x.Serves x := ⟨rfl, .inl rfl, fun _ => ⟨rfl, rfl, rfl, .refl _⟩⟩

theorem Channel.Serves.state (h : x.Serves y) : y.state = x.state := by rw [h.same]

theorem Channel.Serves.trans (h : x.Serves y) {z : Channel} (h' : y.Serves z) : x.Serves z := by
  refine ⟨by rw [h'.same, h.same], ?_, fun hna => ?_⟩
  · rcases h'.armed with ha | ha
    · rw [ha]
      exact h.armed
    · exact .inr ha
  · obtain ⟨hw, hp, ho, hn⟩ := h.quiet hna
    obtain ⟨hw', hp', ho', hn'⟩ := h'.quiet (h.state ▸ hna)
    exact ⟨hw'.trans hw, hp'.trans hp, ho'.trans ho, hn'.trans hn⟩

/-- The record of an ACTIVE channel that writes or keeps a reply or a notice. -/
theorem Channel.Serves.of_active (ha : x.state = .active)
    (h : y = { x with writes := y.writes, phase := y.phase, owed := y.owed, notices := y.notices }) : x.Serves y :=
  ⟨by rw [h], .inl (by rw [h]), fun hna => absurd ha hna⟩

theorem serves_setChan (h : (s.chan ch).Serves x) (n : Nat) : (s.chan n).Serves ((s.setChan ch x).chan n) := by
  rw [State.chan_setChan]
  split_ifs with hn
  exacts [hn ▸ h, .refl _]

theorem serves_drop (s : State) (ch : Nat) (p : Notice → Bool) (n : Nat) : (s.chan n).Serves ((s.dropNotices ch p).chan n) :=
  serves_setChan (x := { s.chan ch with notices := (s.chan ch).notices.filter fun n => !p n })
    ⟨rfl, .inl rfl, fun _ => ⟨rfl, rfl, rfl, List.filter_sublist⟩⟩ n

theorem serves_coreMove (h : CoreMove s t) (n : Nat) : (s.chan n).Serves (t.chan n) := by
  cases h
  case answer ha => exact serves_setChan (.of_active ha rfl) n
  case notice ha _ _ => exact serves_setChan (.of_active ha rfl) n
  case keep ha => exact serves_setChan (.of_active ha rfl) n
  case unkeep ha _ _ => exact serves_setChan (.of_active ha rfl) n
  case drop => exact serves_drop ..
  case disarm ch =>
    exact serves_setChan (x := { s.chan ch with armed := false }) ⟨rfl, .inr rfl, fun _ => ⟨rfl, rfl, rfl, .refl _⟩⟩ n
  case interrupt => exact .refl _
  case choose => exact .refl _
  case freed c =>
    unfold State.freeClaim State.dropContention
    split
    · split
      · simpa using serves_drop ..
      · simpa using .refl _
    · exact .refl _
  all_goals simpa using .refl _

theorem serves_core (h : Core s t) (n : Nat) : (s.chan n).Serves (t.chan n) := by
  induction h with
  | refl => exact .refl _
  | tail _ h ih => exact ih.trans (serves_coreMove h n)

/-! ### The sessions that a teardown frees (R91) -/

theorem session_freeSessions_other {l : List Nat} {j : Nat} (hj : j ∉ l) :
    (l.foldl State.freeSession s).session j = s.session j := by
  induction l generalizing s with
  | nil => rfl
  | cons i l ih =>
    rw [List.mem_cons, not_or] at hj
    obtain ⟨hne, hl⟩ := hj
    rw [List.foldl_cons, ih hl, State.freeSession, State.session_setSession, if_neg hne]

/-- A record in the list, which has no index twice, is freed with its tag advanced once. -/
theorem session_freeSessions_mem {l : List Nat} {j : Nat} (hl : l.Nodup) (hj : j ∈ l) :
    (l.foldl State.freeSession s).session j = SessionRec.freed j (s.session j).tag := by
  induction l generalizing s with
  | nil => cases hj
  | cons i l ih =>
    obtain ⟨hi, hl⟩ := List.nodup_cons.mp hl
    rw [List.foldl_cons]
    rcases List.mem_cons.mp hj with rfl | hj
    · rw [session_freeSessions_other hi, freeSession_eq rfl, State.session_setSession, if_pos rfl]
    · have hne : j ≠ i := fun h => hi (h ▸ hj)
      rw [ih hl hj, State.freeSession, State.session_setSession, if_neg hne]

/-! ### One channel record in order -/

/-- What ChannelsQuiet and RingsKept say of the record `x` of channel `n`. -/
structure Channel.Sound (n : Nat) (x : Channel) : Prop where
  off : x.state = .off → x = Channel.reset
  owed : x.state ≠ .active → x.owed = 0
  notices : x.state ≠ .active → x.notices = []
  entries : ∀ rest, x.fetch = .taking rest → x.state = .active
  configured : x.state = .active ∨ (n ≠ 0 ∧ x.state ≠ .off) → ∃ r, x.rings = some r ∧ r.valid = true
  indices : x.state = .active → x.indicesInRange

theorem sound_iff : ChannelsQuiet s ∧ RingsKept s ↔ ∀ n, (s.chan n).Sound n := by
  refine ⟨fun ⟨hq, hr⟩ n => ⟨hq.off n, hq.owed n, hq.notices n, hq.entries n, hr.configured n, hr.indices n⟩, fun h => ⟨?_, ?_⟩⟩
  · exact ⟨fun n => (h n).off, fun n => (h n).owed, fun n => (h n).notices, fun n => (h n).entries⟩
  · exact ⟨fun n => (h n).configured, fun n => (h n).indices⟩

theorem sound_reset (n : Nat) : Channel.reset.Sound n := sound_iff.mp ⟨reset_channelsQuiet, reset_ringsKept⟩ n

theorem ringSize_pos {k : Nat} (h : ringSizeValid k = true) : 0 < k := by
  rcases k with _ | k
  · cases h
  · exact k.succ_pos

theorem Rings.size_pos {r : Rings} (h : r.valid = true) : 0 < r.reqSize ∧ 0 < r.rplSize := by
  simp only [Rings.valid, Bool.and_eq_true] at h
  obtain ⟨⟨⟨⟨hreq, hrpl⟩, -⟩, -⟩, -⟩ := h
  exact ⟨ringSize_pos hreq, ringSize_pos hrpl⟩

/-- A channel that is not OFF keeps its state and its rings: while it is ACTIVE its indices matter, else what is quiet. -/
theorem Channel.Sound.stays (hx : x.Sound n) (hoff : x.state ≠ .off) (hstate : y.state = x.state) (hrings : y.rings = x.rings)
    (hquiet : x.state ≠ .active → y.owed = x.owed ∧ y.notices = x.notices ∧ (y.fetch = x.fetch ∨ y.fetch = .idle))
    (hindices : x.state = .active → y.indicesInRange) : y.Sound n := by
  refine ⟨fun h => absurd (hstate ▸ h) hoff, fun h => ?_, fun h => ?_, fun rest h => ?_, fun h => ?_, fun h => hindices (hstate ▸ h)⟩
  · rw [hstate] at h
    exact (hquiet h).1.trans (hx.owed h)
  · rw [hstate] at h
    exact (hquiet h).2.1.trans (hx.notices h)
  · rw [hstate]
    by_contra hna
    rcases (hquiet hna).2.2 with hf | hf
    · exact hna (hx.entries rest (hf ▸ h))
    · rw [hf] at h
      cases h
  · rw [hrings]
    exact hx.configured (hstate ▸ h)

/-- On an ACTIVE channel all but the state, the rings and the indices may change. -/
theorem Channel.Sound.runs (hx : x.Sound n) (ha : x.state = .active) (hstate : y.state = x.state) (hrings : y.rings = x.rings)
    (hindices : y.indicesInRange) : y.Sound n :=
  hx.stays (by simp [ha]) hstate hrings (fun h => absurd ha h) fun _ => hindices

/-- A channel that leaves ACTIVE for FAULTED or CLOSING. -/
theorem Channel.Sound.stops (hx : x.Sound n) (hoff : n ≠ 0 → x.state ≠ .off) (hstate : y.state = .faulted ∨ y.state = .closing)
    (hrings : y.rings = x.rings) (howed : y.owed = 0) (hnotices : y.notices = []) (hfetch : ∀ rest, y.fetch ≠ .taking rest) :
    y.Sound n := by
  have hna : y.state ≠ .active := by rcases hstate with h | h <;> simp [h]
  refine ⟨fun h => ?_, fun _ => howed, fun _ => hnotices, fun rest h => absurd h (hfetch rest), fun h => ?_, fun h => absurd h hna⟩
  · rcases hstate with h' | h' <;> simp [h'] at h
  · rw [hrings]
    obtain ⟨h0, -⟩ := h.resolve_left hna
    exact hx.configured (.inr ⟨h0, hoff h0⟩)

theorem atLeave_ne_taking (f : Fetch) (rest : List Instr) : f.atLeave ≠ .taking rest := by
  cases f <;> simp [Fetch.atLeave]

theorem Channel.Sound.serves (hx : x.Sound n) (h : x.Serves y) : y.Sound n := by
  by_cases ha : x.state = .active
  · refine hx.runs ha h.state (by rw [h.same]) ?_
    rw [h.same]
    exact hx.indices ha
  obtain ⟨hw, hp, ho, hn⟩ := h.quiet ha
  have hnotices : y.notices = x.notices := by
    rw [hx.notices ha] at hn ⊢
    exact List.sublist_nil.mp hn
  by_cases hoff : x.state = .off
  · have harmed : y.armed = x.armed := by
      rcases h.armed with harm | harm
      · exact harm
      · rw [harm, hx.off hoff]
        rfl
    have hsame : y = x := by rw [h.same, hw, hp, ho, hnotices, harmed]
    rw [hsame]
    exact hx
  · exact hx.stays hoff h.state (by rw [h.same]) (fun _ => ⟨ho, hnotices, .inl (by rw [h.same])⟩) fun h' => absurd h' ha

/-- A channel whose ring state starts anew on valid rings (R121, R138). -/
theorem sound_ringStart {r : Rings} (hr : x.rings = some r) (hv : r.valid = true) : x.ringStart.Sound n := by
  have ha : x.ringStart.state = .active := rfl
  have hrings : x.ringStart.rings = some r := hr
  obtain ⟨hreq, hrpl⟩ := Rings.size_pos hv
  have hindices : x.ringStart.indicesInRange := by
    simp only [Channel.indicesInRange, Channel.reqSize, Channel.rplSize, hrings]
    exact ⟨hreq, hreq, hrpl, hrpl⟩
  exact {
    off := fun h => by cases h
    owed := fun h => absurd ha h
    notices := fun h => absurd ha h
    entries := fun _ h => by cases h
    configured := fun _ => ⟨r, hrings, hv⟩
    indices := fun _ => hindices }

/-! ### Every move keeps the records in order -/

/-- The channels of a state whose records are in order, with another one in order at `ch`. -/
theorem sound_setChan (hs : ∀ n, (s.chan n).Sound n) (hx : x.Sound ch) (n : Nat) : ((s.setChan ch x).chan n).Sound n := by
  rw [State.chan_setChan]
  split_ifs with h
  exacts [h ▸ hx, hs n]

theorem sound_move (h : Move allow own s t) (hs : ∀ n, (s.chan n).Sound n) : ∀ n, (t.chan n).Sound n := by
  cases h
  case core h => exact fun n => (hs n).serves (serves_coreMove h n)
  case pop ch _ _ ha _ => exact sound_setChan hs ((hs ch).runs ha rfl rfl ((hs ch).indices ha))
  case arm ch ha => exact sound_setChan hs ((hs ch).runs ha rfl rfl ((hs ch).indices ha))
  case fetch ch hr =>
    have ha : (s.chan ch).state = .active := by simp [Channel.ready] at hr; tauto
    exact sound_setChan hs ((hs ch).runs ha rfl rfl ((hs ch).indices ha))
  case entries ch _ _ _ ha _ _ =>
    obtain ⟨hp, hc, hrest⟩ := (hs ch).indices ha
    exact sound_setChan hs ((hs ch).runs ha rfl rfl ⟨hp, Nat.mod_lt _ (by omega), hrest⟩)
  case discard ch _ _ hf =>
    have hoff : (s.chan ch).state ≠ .off := fun h => by
      rw [(hs ch).off h] at hf
      cases hf
    exact sound_setChan hs ((hs ch).stays hoff rfl rfl (fun _ => ⟨rfl, rfl, .inr rfl⟩) (hs ch).indices)
  case written ch hw =>
    have hoff : (s.chan ch).state ≠ .off := fun h => by
      rw [(hs ch).off h] at hw
      exact hw rfl
    exact sound_setChan hs ((hs ch).stays hoff rfl rfl (fun _ => ⟨rfl, rfl, .inl rfl⟩) (hs ch).indices)
  case produced ch ha hw =>
    obtain ⟨hp, hc, hrp, hrc⟩ := (hs ch).indices ha
    refine sound_setChan (s := s.popWrite ch) (sound_setChan hs ((hs ch).runs ha rfl rfl ⟨hp, hc, hrp, hrc⟩)) ?_
    simp only [State.popWrite, State.chan_setChan, if_pos]
    exact (hs ch).runs ha rfl rfl ⟨hp, hc, Nat.mod_lt _ (by omega), hrc⟩
  case reqProd ch index h =>
    refine sound_setChan hs ((hs ch).stays ?_ rfl rfl (fun _ => ⟨rfl, rfl, .inl rfl⟩) fun ha => ?_)
    · rcases h with ⟨h, -⟩ | h <;> simp [h]
    · obtain ⟨-, hindex⟩ := h.resolve_right (by simp [ha])
      obtain ⟨-, hrest⟩ := (hs ch).indices ha
      exact ⟨hindex, hrest⟩
  case rplCons ch index h =>
    refine sound_setChan hs ((hs ch).stays ?_ rfl rfl (fun _ => ⟨rfl, rfl, .inl rfl⟩) fun ha => ?_)
    · rcases h with ⟨h, -⟩ | h <;> simp [h]
    · obtain ⟨-, hvalid⟩ := h.resolve_right (by simp [ha])
      obtain ⟨hp, hc, hrp, -⟩ := (hs ch).indices ha
      have hindex : index < (s.chan ch).rplSize := by simp [Channel.consumerValid] at hvalid; tauto
      exact ⟨hp, hc, hrp, hindex⟩
  case fault ch cause ha _ =>
    exact sound_setChan hs ((hs ch).stops (by simp [ha]) (.inl rfl) rfl rfl rfl (atLeave_ne_taking _))
  case badSetup hstate _ =>
    have hna : (s.chan 0).state ≠ .active := by rcases hstate with h | h <;> simp [h]
    exact sound_setChan hs ((hs 0).stops (absurd rfl) (.inl rfl) rfl ((hs 0).owed hna) ((hs 0).notices hna)
      fun rest h => hna ((hs 0).entries rest h))
  case close ch _ hstate _ =>
    have hoff : (s.chan ch).state ≠ .off := by rcases hstate with h | h <;> simp [h]
    exact sound_setChan hs ((hs ch).stops (fun _ => hoff) (.inr rfl) rfl rfl rfl (atLeave_ne_taking _))
  case off ch _ _ _ => exact sound_setChan hs (sound_reset ch)
  case setUp ch r _ _ _ hv _ _ => exact sound_setChan hs (sound_ringStart (r := r) rfl hv)
  case restart ch h0 hf _ _ =>
    obtain ⟨r, hr, hv⟩ := (hs ch).configured (.inr ⟨h0, by simp [hf]⟩)
    exact sound_setChan hs (sound_ringStart hr hv)
  case startManagement _ hv _ => exact sound_setChan hs (sound_ringStart (r := s.mgmt.rings) rfl hv)
  case access ch _ _ hstate =>
    have hoff : (s.chan ch).state ≠ .off := by rcases hstate with h | h <;> simp [h]
    exact sound_setChan hs ((hs ch).stays hoff rfl rfl (fun _ => ⟨rfl, rfl, .inl rfl⟩) (hs ch).indices)
  case limits ch _ _ hstate _ _ =>
    have hoff : (s.chan ch).state ≠ .off := by rcases hstate with h | h <;> simp [h]
    exact sound_setChan hs ((hs ch).stays hoff rfl rfl (fun _ => ⟨rfl, rfl, .inl rfl⟩) (hs ch).indices)
  case teardownReply => exact hs
  case registers => exact hs
  case requestPeriod => exact hs
  all_goals simpa using hs

theorem sound_moves (h : Moves allow own s t) (hs : ∀ n, (s.chan n).Sound n) : ∀ n, (t.chan n).Sound n := by
  induction h with
  | refl => exact hs
  | tail _ h ih => exact sound_move h ih

end

end Sys2Proof.Machine
end

section
/-! PROOFS. The counts of sessions and claims in every step (R77, R91, R125): each command lowers them, adds one below the limit,
or frees a channel's sessions before its limits go. -/

namespace Sys2Proof.Machine

section
variable {s t : State} {n ch i k d : Nat} {x y : Channel} {r r' : SessionRec} {f : SessionRec → Nat}
  {allow : Nat → ChanState → ChanState → Prop} {own : Nat → Prop}

/-! ### Sums over a channel's sessions -/

/-- The sum of `f` over the sessions of channel `n`. -/
def State.tally (s : State) (f : SessionRec → Nat) (n : Nat) : Nat := ∑ j ∈ (s.sessionsOf n).toFinset, f (s.session j)

/-- What a record adds to the sum over the sessions of channel `n`. -/
def SessionRec.weight (f : SessionRec → Nat) (n : Nat) (r : SessionRec) : Nat := if r.channel = some n then f r else 0

theorem weight_of_opened {o : OpenSession} (h : r.state = .opened o) : r.weight f n = if o.channel = n then f r else 0 := by
  simp only [SessionRec.weight, channel_of_opened h, Option.some_inj]

theorem sessionsOf_nodup (s : State) (n : Nat) : (s.sessionsOf n).Nodup := s.sessions.indices_nodup.filter _

theorem sessionCount_eq_tally (s : State) (n : Nat) : s.sessionCount n = s.tally (fun _ => 1) n := by
  rw [State.sessionCount, State.tally, Finset.sum_const, smul_eq_mul, mul_one, List.toFinset_card_of_nodup (sessionsOf_nodup s n)]

theorem claimCount_eq_tally (s : State) (n : Nat) : s.claimCount n = s.tally (fun r => r.claims.length) n := by
  rw [State.claimCount, State.claimsOf, State.tally, List.length_flatMap, List.sum_toFinset _ (sessionsOf_nodup s n)]

/-- The sum may be taken over any set of records that has the channel's sessions. -/
theorem tally_eq_sum {S : Finset Nat} (hS : ∀ j ∈ s.sessionsOf n, j ∈ S) :
    s.tally f n = ∑ j ∈ S, (s.session j).weight f n := by
  have hset : S.filter (fun j => (s.session j).channel = some n) = (s.sessionsOf n).toFinset := by
    ext j
    rw [Finset.mem_filter, List.mem_toFinset, ← mem_sessionsOf]
    exact ⟨And.right, fun h => ⟨hS j h, h⟩⟩
  rw [State.tally, ← hset, Finset.sum_filter]
  rfl

/-- Where no record weighs more, but record `k` by `d`, the sum is at most `d` more. -/
theorem tally_le (k d : Nat) (h : ∀ j, (t.session j).weight f n ≤ (s.session j).weight f n + if j = k then d else 0) :
    t.tally f n ≤ s.tally f n + d := by
  have hs : ∀ j ∈ s.sessionsOf n, j ∈ (s.sessionsOf n).toFinset ∪ (t.sessionsOf n).toFinset := by simp; tauto
  have ht : ∀ j ∈ t.sessionsOf n, j ∈ (s.sessionsOf n).toFinset ∪ (t.sessionsOf n).toFinset := by simp; tauto
  calc t.tally f n
      ≤ ∑ j ∈ (s.sessionsOf n).toFinset ∪ (t.sessionsOf n).toFinset,
          ((s.session j).weight f n + if j = k then d else 0) := by
        rw [tally_eq_sum ht]
        exact Finset.sum_le_sum fun j _ => h j
    _ ≤ s.tally f n + d := by
        rw [Finset.sum_add_distrib, ← tally_eq_sum hs, Finset.sum_ite_eq']
        split_ifs <;> simp

theorem tally_mono (h : ∀ j, (t.session j).weight f n ≤ (s.session j).weight f n) : t.tally f n ≤ s.tally f n :=
  tally_le 0 0 fun j => by simpa using h j

theorem claimCount_of_no_session (h : s.sessionCount n = 0) : s.claimCount n = 0 := by
  rw [State.claimCount, State.claimsOf, List.eq_nil_of_length_eq_zero h]
  rfl

/-! ### Records that come to weigh no more -/

/-- The record is freed, or stays on its channel with no more claims. -/
def SessionRec.shrinks (r r' : SessionRec) : Prop :=
  r'.channel = none ∨ r'.channel = r.channel ∧ r'.claims.length ≤ r.claims.length

theorem SessionRec.shrinks.refl (r : SessionRec) : r.shrinks r := .inr ⟨rfl, Nat.le_refl _⟩

theorem SessionRec.shrinks.sessionWeight (h : r.shrinks r') (n : Nat) : r'.weight (fun _ => 1) n ≤ r.weight (fun _ => 1) n := by
  rcases h with h | ⟨h, -⟩ <;> simp [SessionRec.weight, h]

theorem SessionRec.shrinks.claimWeight (h : r.shrinks r') (n : Nat) :
    r'.weight (fun r => r.claims.length) n ≤ r.weight (fun r => r.claims.length) n := by
  rcases h with h | ⟨h, hl⟩
  · simp [SessionRec.weight, h]
  · rw [SessionRec.weight, SessionRec.weight, h]
    split_ifs
    exacts [hl, Nat.le_refl _]

theorem SessionRec.untouched.shrinks (h : r.untouched r') : r.shrinks r' := by
  obtain ⟨-, h⟩ := h
  refine .inr ?_
  rcases hr : r.state with _ | o | l <;> rw [hr] at h
  · simp [SessionRec.channel, SessionRec.claims, hr, h]
  · obtain ⟨l, hl, ht⟩ := h
    simp [SessionRec.channel, SessionRec.claims, hr, ht, hl.length_le]
  · obtain ⟨p, ht⟩ := h
    simp [SessionRec.channel, SessionRec.claims, hr, ht]

theorem shrinks_setSession (h : (s.session i).shrinks r) (j : Nat) : (s.session j).shrinks ((s.setSession i r).session j) := by
  rw [State.session_setSession]
  split_ifs with hj
  exacts [hj ▸ h, .refl _]

theorem shrinks_renew (s : State) (i j : Nat) : (s.session j).shrinks ((s.renew i).session j) := by
  unfold State.renew State.modOpen
  split
  · rename_i o ho
    exact shrinks_setSession (.inr (by simp [SessionRec.channel, SessionRec.claims, ho])) j
  all_goals exact .refl _

/-! ### Limits -/

/-- The counts are within the limits, and an OFF or CLOSING channel has no session (R77, R91). -/
structure WithinLimits (s : State) : Prop where
  sessions : ∀ n, s.sessionCount n ≤ (s.chan n).sessionLimit
  claims : ∀ n, s.claimCount n ≤ (s.chan n).claimLimit
  without : ∀ n, (s.chan n).state = .off ∨ (s.chan n).state = .closing → s.sessionCount n = 0

theorem countsKept_iff : CountsKept s ↔ WithinLimits s ∧ s.lastGranted < 16 :=
  ⟨fun h => ⟨⟨h.sessions, h.claims, h.without⟩, h.granted⟩, fun ⟨h, hg⟩ => ⟨h.sessions, h.claims, h.without, hg⟩⟩

/-- The record `y` of a channel keeps the limits of `x`, and is OFF or CLOSING only if `x` was. -/
structure Channel.Admits (x y : Channel) : Prop where
  sessions : y.sessionLimit = x.sessionLimit
  claims : y.claimLimit = x.claimLimit
  ended : y.state = .off ∨ y.state = .closing → x.state = .off ∨ x.state = .closing

theorem Channel.Admits.refl (x : Channel) : x.Admits x := ⟨rfl, rfl, id⟩

theorem Channel.Serves.admits (h : x.Serves y) : x.Admits y := ⟨by rw [h.same], by rw [h.same], by rw [h.state]; exact id⟩

theorem admits_issueFetch (s : State) (n k : Nat) : (s.chan k).Admits ((s.issueFetch n).chan k) := by
  show (s.chan k).Admits ((s.setChan n _).chan k)
  rw [State.chan_setChan]
  split_ifs with h
  · subst h
    exact ⟨rfl, rfl, id⟩
  · exact .refl _

/-- Sessions that come to weigh no more, on channels that end only where no session is left. -/
theorem WithinLimits.lowered (hs : WithinLimits s) (hsession : ∀ j, (s.session j).shrinks (t.session j))
    (hlimits : ∀ n, (t.chan n).sessionLimit = (s.chan n).sessionLimit ∧ (t.chan n).claimLimit = (s.chan n).claimLimit)
    (hended : ∀ n, (t.chan n).state = .off ∨ (t.chan n).state = .closing →
      ((s.chan n).state = .off ∨ (s.chan n).state = .closing) ∨ t.sessionCount n = 0) : WithinLimits t := by
  have hle (n : Nat) : t.sessionCount n ≤ s.sessionCount n := by
    rw [sessionCount_eq_tally, sessionCount_eq_tally]
    exact tally_mono fun j => (hsession j).sessionWeight n
  refine ⟨fun n => ?_, fun n => ?_, fun n hn => ?_⟩
  · rw [(hlimits n).1]
    exact (hle n).trans (hs.sessions n)
  · rw [(hlimits n).2, claimCount_eq_tally]
    refine (tally_mono fun j => (hsession j).claimWeight n).trans ?_
    rw [← claimCount_eq_tally]
    exact hs.claims n
  · rcases hended n hn with h | h
    · exact Nat.le_zero.mp ((hle n).trans (hs.without n h).le)
    · exact h

theorem WithinLimits.shrunk (hs : WithinLimits s) (hsession : ∀ j, (s.session j).shrinks (t.session j))
    (hchan : ∀ n, (s.chan n).Admits (t.chan n)) : WithinLimits t :=
  hs.lowered hsession (fun n => ⟨(hchan n).sessions, (hchan n).claims⟩) fun n hn => .inl ((hchan n).ended hn)

/-- A channel record changed: it admits what the old one does, or the channel has no session. -/
theorem WithinLimits.setChan (hs : WithinLimits s) (h : (s.chan ch).Admits x ∨ s.sessionCount ch = 0) :
    WithinLimits (s.setChan ch x) := by
  have hsessions (n : Nat) : (s.setChan ch x).sessionCount n = s.sessionCount n := rfl
  have hclaims (n : Nat) : (s.setChan ch x).claimCount n = s.claimCount n := rfl
  refine ⟨fun n => ?_, fun n => ?_, fun n => ?_⟩ <;> simp only [hsessions, hclaims, State.chan_setChan]
  all_goals split_ifs with hn
  · subst hn
    rcases h with h | h
    · rw [h.sessions]
      exact hs.sessions _
    · omega
  · exact hs.sessions n
  · subst hn
    rcases h with h | h
    · rw [h.claims]
      exact hs.claims _
    · rw [claimCount_of_no_session h]
      exact Nat.zero_le _
  · exact hs.claims n
  · subst hn
    rcases h with h | h
    · exact fun hended => hs.without _ (h.ended hended)
    · exact fun _ => h
  · exact hs.without n

/-- Limits set no lower than the counts (R161). -/
theorem WithinLimits.setLimits (hs : WithinLimits s) {a b : Nat} (ha : s.sessionCount ch ≤ a) (hb : s.claimCount ch ≤ b) :
    WithinLimits (s.setChan ch { s.chan ch with sessionLimit := a, claimLimit := b }) := by
  refine ⟨fun n => ?_, fun n => ?_, fun n hn => ?_⟩ <;> rw [State.chan_setChan] at *
  · split_ifs with h
    exacts [h ▸ ha, hs.sessions n]
  · split_ifs with h
    exacts [h ▸ hb, hs.claims n]
  · refine hs.without n ?_
    split_ifs at hn with h
    exacts [h ▸ hn, hn]

/-- A session opened below the session limit of an ACTIVE channel (R76). -/
theorem WithinLimits.openAt (hs : WithinLimits s) (hbelow : s.sessionCount ch < (s.chan ch).sessionLimit)
    (ha : (s.chan ch).state = .active) (p : BitVec 16) (b : Bool) : WithinLimits (s.openAt i ch p b) := by
  have hsession (j : Nat) : (s.openAt i ch p b).session j = if j = i then
      ⟨(s.session i).tag, .opened ⟨ch, p, keepaliveDeadline s.now p, b, []⟩⟩ else s.session j := State.session_setSession ..
  have hsessions (n : Nat) : (s.openAt i ch p b).sessionCount n ≤ s.sessionCount n + if n = ch then 1 else 0 := by
    rw [sessionCount_eq_tally, sessionCount_eq_tally]
    refine tally_le i _ fun j => ?_
    rw [hsession]
    by_cases hj : j = i
    · rw [if_pos hj, if_pos hj, weight_of_opened rfl]
      dsimp only
      split_ifs <;> omega
    · rw [if_neg hj, if_neg hj]
      exact Nat.le_refl _
  have hclaims (n : Nat) : (s.openAt i ch p b).claimCount n ≤ s.claimCount n := by
    rw [claimCount_eq_tally, claimCount_eq_tally]
    refine tally_mono fun j => ?_
    rw [hsession]
    split_ifs
    · simp [SessionRec.weight, SessionRec.claims]
    · exact Nat.le_refl _
  refine ⟨fun n => (hsessions n).trans ?_, fun n => (hclaims n).trans (hs.claims n), fun n hn => ?_⟩
  · split_ifs with h
    · subst h
      exact hbelow
    · exact hs.sessions n
  · have hne : n ≠ ch := by
      rintro rfl
      rw [State.chan_openAt, ha] at hn
      simp at hn
    have hle := hsessions n
    rw [if_neg hne, hs.without n hn] at hle
    exact Nat.le_zero.mp hle

/-- A claim allocated below the claim limit of its session's channel (R26, R49). -/
theorem WithinLimits.allocate (hs : WithinLimits s) {o : OpenSession} (ho : (s.session i).state = .opened o)
    (hbelow : s.claimCount o.channel < (s.chan o.channel).claimLimit) (c w : Nat) (st : ClaimState) :
    WithinLimits (s.allocate c i w st) := by
  have hsession (j : Nat) : (s.allocate c i w st).session j = if j = i then
      ⟨(s.session i).tag, .opened { o with claims := o.claims ++ [c] }⟩ else s.session j := by
    rw [State.session_allocate, ho]
  have hsessions (n : Nat) : (s.allocate c i w st).sessionCount n ≤ s.sessionCount n := by
    rw [sessionCount_eq_tally, sessionCount_eq_tally]
    refine tally_mono fun j => ?_
    rw [hsession]
    split_ifs with hj
    · simp [SessionRec.weight, SessionRec.channel, hj, ho]
    · exact Nat.le_refl _
  have hclaims (n : Nat) : (s.allocate c i w st).claimCount n ≤ s.claimCount n + if n = o.channel then 1 else 0 := by
    rw [claimCount_eq_tally, claimCount_eq_tally]
    refine tally_le i _ fun j => ?_
    rw [hsession]
    by_cases hj : j = i
    · rw [if_pos hj, if_pos hj, hj, weight_of_opened rfl, weight_of_opened ho, SessionRec.claims_of_opened ho, SessionRec.claims_of_opened rfl]
      dsimp only
      rw [List.length_append, List.length_singleton]
      split_ifs <;> omega
    · rw [if_neg hj, if_neg hj]
      exact Nat.le_refl _
  refine ⟨fun n => ?_, fun n => ?_, fun n hn => ?_⟩
  · rw [State.chan_allocate]
    exact (hsessions n).trans (hs.sessions n)
  · rw [State.chan_allocate]
    refine (hclaims n).trans ?_
    split_ifs with h
    · subst h
      exact hbelow
    · exact hs.claims n
  · rw [State.chan_allocate] at hn
    exact Nat.le_zero.mp ((hsessions n).trans (hs.without n hn).le)

/-! ### Every move that closes no channel -/

theorem WithinLimits.core (h : Core s t) (hs : WithinLimits s) : WithinLimits t :=
  hs.shrunk (fun j => (core_untouched h j).shrinks) fun n => (serves_core h n).admits

theorem WithinLimits.of_tables (hs : WithinLimits s) (hsessions : t.sessions = s.sessions) (hchan : ∀ n, t.chan n = s.chan n) :
    WithinLimits t :=
  hs.shrunk (fun j => by rw [State.session, State.session, hsessions]; exact .refl _) fun n => by rw [hchan]; exact .refl _

theorem WithinLimits.move (hclose : ∀ n a, a ≠ .closing → ¬allow n a .closing) (h : Move allow own s t)
    (hs : WithinLimits s) : WithinLimits t := by
  cases h
  case core h => exact hs.core (.one h)
  case close hstate hallow =>
    refine absurd hallow (hclose _ _ ?_)
    rcases hstate with h | h <;> simp [h]
  case fault ha _ => exact hs.setChan (.inl ⟨rfl, rfl, by simp [Channel.faulted]⟩)
  case badSetup => exact hs.setChan (.inl ⟨rfl, rfl, by simp⟩)
  case off hc _ _ => exact hs.setChan (.inr (hs.without _ (.inr hc)))
  case setUp hoff _ => exact hs.setChan (.inr (hs.without _ (.inl hoff)))
  case restart => exact hs.setChan (.inl ⟨rfl, rfl, by simp [Channel.ringStart]⟩)
  case startManagement => exact hs.setChan (.inl ⟨rfl, rfl, by simp [Channel.ringStart]⟩)
  case limits ha hb => exact hs.setLimits ha hb
  case opening hbelow _ ha => exact hs.openAt hbelow ha _ _
  case renewal => exact hs.shrunk (shrinks_renew s _) fun n => by simp [Channel.Admits.refl]
  case lapse ho =>
    exact hs.shrunk (shrinks_setSession (.inr (by simp [SessionRec.channel, SessionRec.claims, ho]))) fun _ => .refl _
  case freeing => exact hs.shrunk (shrinks_setSession (.inl rfl)) fun _ => .refl _
  case grantedAtOnce ho hch hbelow _ _ _ _ =>
    subst hch
    exact (hs.allocate ho hbelow ..).of_tables (by rw [State.hold_frame]) (by simp)
  case queued ho hch hbelow _ _ =>
    subst hch
    exact hs.allocate ho hbelow ..
  case teardownReply => exact hs.of_tables rfl fun _ => rfl
  case registers => exact hs.of_tables rfl fun _ => rfl
  case requestPeriod => exact hs.of_tables rfl fun _ => rfl
  case pop => exact hs.setChan (.inl ⟨rfl, rfl, id⟩)
  case arm => exact hs.setChan (.inl ⟨rfl, rfl, id⟩)
  case fetch => exact hs.shrunk (fun _ => .refl _) (admits_issueFetch s _)
  case entries => exact hs.setChan (.inl ⟨rfl, rfl, id⟩)
  case discard => exact hs.setChan (.inl ⟨rfl, rfl, id⟩)
  case written => exact hs.setChan (.inl ⟨rfl, rfl, id⟩)
  case produced => exact WithinLimits.setChan (hs.setChan (.inl ⟨rfl, rfl, id⟩)) (.inl ⟨rfl, rfl, id⟩)
  case reqProd => exact hs.setChan (.inl ⟨rfl, rfl, id⟩)
  case rplCons => exact hs.setChan (.inl ⟨rfl, rfl, id⟩)
  case access => exact hs.setChan (.inl ⟨rfl, rfl, id⟩)
  case upgradedAtOnce => exact hs.of_tables (by rw [State.hold_frame]) (by simp)
  case downgraded => exact hs.of_tables (by rw [State.modClaim_frame]) (by simp)
  case converting => exact hs.of_tables (by rw [State.modEntry_frame, State.modClaim_frame]) (by simp)
  case created => exact hs.of_tables rfl fun _ => rfl
  case evicted => exact hs.of_tables rfl fun _ => rfl
  case discarded => exact hs.of_tables rfl fun _ => rfl
  case reactivated => exact hs.of_tables rfl fun _ => rfl

theorem WithinLimits.moves (hclose : ∀ n a, a ≠ .closing → ¬allow n a .closing) (h : Moves allow own s t)
    (hs : WithinLimits s) : WithinLimits t := by
  induction h with
  | refl => exact hs
  | tail _ h ih => exact ih.move hclose h

/-! ### TEARDOWN_CHANNEL (R91, R139, R158) -/

/-- A teardown frees the channel's sessions before its limits go. -/
theorem WithinLimits.beginTeardown (hs : WithinLimits s) (ch : Nat) : WithinLimits (s.beginTeardown ch) := by
  have hcore := core_emptied s ch
  have hchannel (j : Nat) : ((s.beginTeardown ch).session j).channel =
      if j ∈ (s.emptied ch).sessionsOf ch then none else ((s.emptied ch).session j).channel := by
    rw [beginTeardown_eq, session_freeSessions]
  refine hs.lowered (fun j => ?_) (fun n => ?_) fun n hn => ?_
  · by_cases hj : j ∈ (s.emptied ch).sessionsOf ch
    · exact .inl (by rw [hchannel, if_pos hj])
    · rw [beginTeardown_eq, session_freeSessions_other hj]
      exact (core_untouched hcore j).shrinks
  · have hclosing : ((s.closing ch).chan n).sessionLimit = (s.chan n).sessionLimit ∧
        ((s.closing ch).chan n).claimLimit = (s.chan n).claimLimit := by
      rw [State.closing, State.chan_setChan]
      split_ifs with h <;> simp [h]
    have hserves := serves_core hcore n
    rw [beginTeardown_eq, chan_freeSessions, hserves.admits.sessions, hserves.admits.claims]
    exact hclosing
  · rw [state_beginTeardown] at hn
    split_ifs at hn with h
    · refine .inr (List.length_eq_zero_iff.mpr (List.eq_nil_iff_forall_not_mem.mpr fun j hj => ?_))
      rw [mem_sessionsOf, hchannel] at hj
      split_ifs at hj with hmem
      exact hmem (mem_sessionsOf.mpr (h ▸ hj))
    · exact .inl hn

/-- The end of a teardown, if it has come, closes no channel. -/
theorem WithinLimits.endTeardownIfDrained (hs : WithinLimits s) (ch : Nat) : WithinLimits (s.endTeardownIfDrained ch) := by
  have hmoves : Moves (fun _ a _ => a = .closing) (fun _ => False) s (s.endTeardownIfDrained ch) :=
    moves_endTeardownIfDrained s ch rfl
  exact WithinLimits.moves (allow := fun _ a _ => a = .closing) (fun _ _ hne h => hne h) hmoves hs

theorem WithinLimits.teardown (hs : WithinLimits s) (n : Nat) (tag : ReqTag) : WithinLimits (s.teardown n tag) := by
  have hbegun := (hs.core (.one (.drop 0 (Notice.faultOf n)))).beginTeardown n
  rw [State.teardown]
  generalize (s.dropNotices 0 (Notice.faultOf n)).beginTeardown n = u at *
  have hreplies : WithinLimits { u with teardownReplies := u.teardownReplies.set n (some tag) } :=
    hbegun.of_tables rfl fun _ => rfl
  exact hreplies.endTeardownIfDrained n

theorem WithinLimits.teardownChannel (hs : WithinLimits s) (ch : Nat) (tag : ReqTag) (target : BitVec 8) :
    WithinLimits (s.teardownChannel ch tag target) := by
  unfold State.teardownChannel
  split
  · exact hs.core (core_reply ..)
  split
  · split
    exacts [hs.core (core_reply ..), hs.core (core_reply ..), hs.teardown _ _, hs.teardown _ _]
  · exact hs.core (core_reply ..)

/-! ### Every command -/

/-- Only a TEARDOWN_CHANNEL may close a channel (R120). -/
theorem transition_closing {c : Instr} (h : ∀ ch tag target, c ≠ .teardownChannel ch tag target) (n : Nat) (a : ChanState) :
    c.transition n a .closing = false := by
  cases c <;> simp_all [Instr.transition]

theorem WithinLimits.exec {c : Instr} (ht : c ≠ .tick) (hr : c ≠ .deviceReset) (hu : c ≠ .startupEnd)
    (h : exec c s = .next t) (hs : WithinLimits s) : WithinLimits t := by
  by_cases hc : ∃ ch tag target, c = .teardownChannel ch tag target
  · obtain ⟨ch, tag, target, rfl⟩ := hc
    rw [Machine.exec, execTeardownChannel, takeRequest] at h
    split_ifs at h <;> cases h
    · have hpop : WithinLimits (s.popRequest ch) := hs.setChan (.inl ⟨rfl, rfl, id⟩)
      exact hpop.teardownChannel ..
    · exact hs
  · have hne : ∀ ch tag target, c ≠ .teardownChannel ch tag target := fun ch tag target h => hc ⟨ch, tag, target, h⟩
    refine hs.moves (fun n a ha hallow => ?_) (exec_moves h ht hr hu)
    rcases hallow with h | h
    · exact ha h
    · rw [transition_closing hne] at h
      cases h

theorem WithinLimits.tick (hs : WithinLimits s) : WithinLimits s.tickOnce := by
  refine hs.shrunk (fun j => .inr ?_) fun _ => .refl _
  rw [session_tickOnce, SessionRec.atTick]
  split <;> simp [SessionRec.channel, SessionRec.claims, *]

/-! ### The last granted channel (R125) -/

theorem arbiterChoice_lt (h : s.arbiterChoice = some n) : n < 16 := by
  obtain ⟨k, -, rfl⟩ := List.mem_map.mp (List.mem_of_find?_eq_some h)
  exact Nat.mod_lt _ (by decide)

theorem lastGranted_exec {c : Instr} (ht : c ≠ .tick) (hr : c ≠ .deviceReset) (hu : c ≠ .startupEnd)
    (h : exec c s = .next t) (hs : s.lastGranted < 16) : t.lastGranted < 16 := by
  by_cases hf : c = .fetchIssue
  · subst hf
    cases h
    split
    · exact arbiterChoice_lt ‹_›
    · exact hs
  · rw [(Reaches.exec h ht hr hu hf).granted]
    exact hs

end

/-- Settles O50: a step other than a tick and a reset is a chain of moves, each of which keeps a channel record in order, and
the counts where it closes no channel; a teardown frees the channel's sessions first. -/
theorem channelsKeptByStep : Obligations.ChannelsKeptByStep := by
  refine ⟨fun s t hq hr h => ?_, fun s t hs h => ?_⟩
  · refine sound_iff.mpr (step_kept (P := fun s => ∀ n, (s.chan n).Sound n) (fun _ _ hs => hs) (fun _ hs => hs)
      (fun _ _ => sound_reset) (fun _ _ _ ht hr hu h hs => ?_) h (sound_iff.mp ⟨hq, hr⟩))
    exact sound_moves (exec_moves h ht hr hu) hs
  · refine step_kept (fun _ _ hs => ?_) (fun _ hs => ?_) (fun _ _ => ?_) (fun _ _ _ ht hr hu h hs => ?_) h hs
    · exact ⟨hs.sessions, hs.claims, hs.without, hs.granted⟩
    · obtain ⟨hw, hg⟩ := countsKept_iff.mp hs
      exact countsKept_iff.mpr ⟨hw.tick, hg⟩
    · exact ⟨fun _ => Nat.zero_le _, fun _ => Nat.zero_le _, fun _ _ => rfl, (by decide : 15 < 16)⟩
    · obtain ⟨hw, hg⟩ := countsKept_iff.mp hs
      exact countsKept_iff.mpr ⟨hw.exec ht hr hu h, lastGranted_exec ht hr hu h hg⟩

end Sys2Proof.Machine
end

section
/-! PROOFS. The teardown of a channel (R91, R139, R158): its sessions and claims freed, a sole holder's value INVALID, and its end
where no DMA is in flight. -/

namespace Sys2Proof.Machine

section
variable {s : State} {w c n i k : Nat} {x : Entry} {o : OpenSession} {tag : ReqTag}

/-! ### A sole holder of X among the withdrawn (R91, R114) -/

/-- The withdrawal of a claim at a teardown, which answers nothing and takes an X value with it (R91). -/
abbrev State.withdrawSilently (s : State) (c : Nat) : State := s.withdraw c none true

theorem holdsFor_withdrawals {l : List Nat} (h : s.holdsFor c w x) (hc : c ∉ l) :
    (l.foldl State.withdrawSilently s).holdsFor c w x := by
  induction l generalizing s with
  | nil => exact h
  | cons k l ih =>
    rw [List.mem_cons, not_or] at hc
    obtain ⟨hk, hc⟩ := hc
    exact ih (holdsFor_withdraw h (Ne.symm hk) none) hc

theorem Vacant.withdrawals {l : List Nat} (h : Vacant s w x) : Vacant (l.foldl State.withdrawSilently s) w x := by
  induction l generalizing s with
  | nil => exact h
  | cons k l ih => exact ih (h.withdraw k none)

theorem vacant_withdrawals {l : List Nat} (h : s.holdsFor c w x) (hc : c ∈ l) :
    Vacant (l.foldl State.withdrawSilently s) w x := by
  induction l generalizing s with
  | nil => cases hc
  | cons k l ih =>
    by_cases hk : k = c
    · subst hk
      exact (vacant_withdraw_holder h none).withdrawals
    · exact ih (holdsFor_withdraw h hk none) ((List.mem_cons.mp hc).resolve_left (Ne.symm hk))

/-- Of the parts of a teardown only the one at the holder's way has the holder, and it leaves the way DORMANT. -/
theorem way_withdrawParts {parts : List (Nat × List Nat)} (h : s.holdsFor c w x) (hv : x.value ≠ .absent)
    (hmem : ∀ p ∈ parts, c ∈ p.2 ↔ p.1 = w) (hw : ∃ p ∈ parts, p.1 = w) :
    (parts.foldl (State.withdrawPartOf State.withdrawSilently) s).way w = .dormant x := by
  induction parts generalizing s with
  | nil => simp at hw
  | cons p parts ih =>
    have hp := hmem p List.mem_cons_self
    rw [List.foldl_cons]
    by_cases hpw : p.1 = w
    · refine core_dormant (core_foldl _ (core_withdrawPartOf fun _ _ => core_withdraw ..) parts _) ?_
      rw [State.withdrawPartOf, hpw]
      exact (vacant_withdrawals h (hp.mpr hpw)).finish hv
    · refine ih (holdsFor_finish (holdsFor_withdrawals h (hp.not.mpr hpw)) p.1) (fun q hq => hmem q (List.mem_cons_of_mem p hq)) ?_
      obtain ⟨q, hq, hqw⟩ := hw
      rcases List.mem_cons.mp hq with rfl | hq
      exacts [absurd hqw hpw, ⟨q, hq, hqw⟩]

/-- The withdrawals of a teardown leave the way of a sole X holder among them DORMANT (R91, R114). -/
theorem way_withdrawAll {lists : List (List Nat)} {claims : List Nat} (h : s.holdsFor c w x) (hv : x.value ≠ .absent)
    (hc : c ∈ claims) : (s.withdrawAll lists claims State.withdrawSilently).way w = .dormant x := by
  obtain ⟨e, he, hx⟩ := id h
  obtain ⟨b, hb, -, hbw⟩ := he.held
  have hfilter (w' : Nat) : c ∈ (claims.filter fun k => (s.claimAt k).map (·.way) == some w') ↔ w' = w := by
    rw [List.mem_filter, hb, Option.map_some, hbw, beq_iff_eq, Option.some_inj, and_iff_right hc]
    exact eq_comm
  refine way_withdrawParts (c := c) (s := { s with choices := s.choices + (s.waysOf claims).length }) ?_ hv (fun p hp => ?_) ?_
  · exact ⟨e, he.of_eq rfl rfl, hx⟩
  · obtain ⟨w', -, rfl⟩ := List.mem_map.mp hp
    exact hfilter w'
  · exact ⟨_, List.mem_map.mpr ⟨w, (partOrder_perm _ _).mem_iff.mpr (hbw ▸ mem_waysOf hc hb), rfl⟩, rfl⟩

/-! ### What a teardown begins with (R91, R139) -/

/-- The sessions that a teardown frees are those of the channel when it begins. -/
theorem mem_sessionsOf_emptied : i ∈ (s.emptied n).sessionsOf n ↔ (s.session i).channel = some n := by
  rw [mem_sessionsOf, core_channel (core_emptied s n)]
  rfl

/-- A session of the channel is freed, its tag advanced (R91). -/
theorem session_beginTeardown (h : (s.session i).channel = some n) :
    (s.beginTeardown n).session i = SessionRec.freed i (s.session i).tag := by
  have htag : ((s.emptied n).session i).tag = (s.session i).tag := (core_untouched (core_emptied s n) i).1
  rw [beginTeardown_eq, session_freeSessions_mem (sessionsOf_nodup ..) (mem_sessionsOf_emptied.mpr h), htag]

theorem session_beginTeardown_other (h : (s.session i).channel ≠ some n) :
    (s.session i).untouched ((s.beginTeardown n).session i) := by
  rw [beginTeardown_eq, session_freeSessions_other (mem_sessionsOf_emptied.not.mpr h)]
  exact core_untouched (core_emptied s n) i

theorem claimAt_beginTeardown (hc : c ∈ s.claimsOf n) : (s.beginTeardown n).claimAt c = none := by
  rw [beginTeardown_eq, claimAt_freeSessions]
  exact withdrawAll_none none true hc _

theorem claimAt_beginTeardown_none (hc : s.claimAt c = none) : (s.beginTeardown n).claimAt c = none := by
  rw [beginTeardown_eq, claimAt_freeSessions]
  exact core_none (core_emptied s n) c hc

theorem way_beginTeardown (h : s.holdsFor c w x) (hv : x.value ≠ .absent) (hc : c ∈ s.claimsOf n) :
    (s.beginTeardown n).way w = .dormant x := by
  obtain ⟨e, he, hx⟩ := h
  have hway : (s.emptied n).way w = .dormant x := way_withdrawAll (s := s.closing n) ⟨e, he.of_eq rfl rfl, hx⟩ hv hc
  rw [beginTeardown_eq, freeSessions_frame]
  exact hway

/-- The channel's record: CLOSING, nothing owed, no pending notice, its writes and its read in flight as they were (R139). -/
theorem chan_beginTeardown (s : State) (n : Nat) : ((s.beginTeardown n).chan n).state = .closing ∧
    ((s.beginTeardown n).chan n).owed = 0 ∧ ((s.beginTeardown n).chan n).notices = [] ∧
    ((s.beginTeardown n).chan n).writes = (s.chan n).writes ∧
    ((s.beginTeardown n).chan n).fetch = (s.chan n).fetch.atLeave := by
  have hclosing : (s.closing n).chan n = { s.chan n with
      state := .closing, owed := 0, notices := [], fetch := (s.chan n).fetch.atLeave } := by
    rw [State.closing, State.chan_setChan, if_pos rfl]
  have hserves := serves_core (core_emptied s n) n
  rw [hclosing] at hserves
  obtain ⟨hwrites, -, howed, hnotices⟩ := hserves.quiet (by simp)
  rw [beginTeardown_eq, chan_freeSessions]
  exact ⟨hserves.state, howed, List.sublist_nil.mp hnotices, hwrites, by rw [hserves.same]⟩

/-- What no teardown changes: READY, the time, the periods, the registers and the queue. -/
def State.sameClock (s t : State) : Prop := t.ready = s.ready ∧ t.now = s.now ∧ t.period = s.period ∧
  t.requestedPeriod = s.requestedPeriod ∧ t.mgmt = s.mgmt ∧ t.pending = s.pending

theorem sameClock_beginTeardown (s : State) (n : Nat) : s.sameClock (s.beginTeardown n) := by
  obtain ⟨-, h⟩ := core_frame (core_emptied s n)
  rw [beginTeardown_eq, freeSessions_frame]
  exact h

/-! ### The end of a teardown (R139, R158) -/

theorem endTeardownIfDrained_frame (s : State) (n : Nat) : s.endTeardownIfDrained n =
    { s with channels := (s.endTeardownIfDrained n).channels
             teardownReplies := (s.endTeardownIfDrained n).teardownReplies } := by
  unfold State.endTeardownIfDrained State.endTeardown
  dsimp only
  split_ifs
  · split
    · rw [State.reply_frame]
      rfl
    · rfl
  · rfl

theorem sameClock_endTeardownIfDrained {t : State} (h : s.sameClock t) (n : Nat) : s.sameClock (t.endTeardownIfDrained n) := by
  rw [endTeardownIfDrained_frame]
  exact h

theorem session_endTeardownIfDrained (s : State) (n i : Nat) : (s.endTeardownIfDrained n).session i = s.session i := by
  rw [endTeardownIfDrained_frame]
  rfl

theorem claimAt_endTeardownIfDrained (s : State) (n c : Nat) : (s.endTeardownIfDrained n).claimAt c = s.claimAt c := by
  rw [endTeardownIfDrained_frame]
  rfl

theorem way_endTeardownIfDrained (s : State) (n w : Nat) : (s.endTeardownIfDrained n).way w = s.way w := by
  rw [endTeardownIfDrained_frame]
  rfl

theorem state_endTeardownIfDrained (hk : k ≠ n) : ((s.endTeardownIfDrained n).chan k).state = (s.chan k).state := by
  unfold State.endTeardownIfDrained State.endTeardown
  dsimp only
  split_ifs
  · have hother (x : Channel) : ((s.setChan n x).chan k).state = (s.chan k).state := by rw [State.chan_setChan, if_neg hk]
    split
    · exact ((core_frame (core_reply ..)).1 k).trans (hother _)
    · exact hother _
  · rfl

/-- Without DMA in flight the teardown ends with its pending reply (R139, R158). -/
theorem endTeardownIfDrained_drained (hs : (s.chan n).state = .closing) (hd : (s.chan n).dmaBusy = false)
    (hr : s.teardownReplies.get n = some tag) : s.endTeardownIfDrained n =
      ({ s.setChan n Channel.reset with teardownReplies := s.teardownReplies.set n none }).hand 0
        ⟨.teardownChannel, tag, .ok, .header⟩ := by
  rw [State.endTeardownIfDrained, if_pos ⟨hs, hd⟩, State.endTeardown]
  dsimp only
  rw [State.setChan_teardownReplies, hr]
  rfl

theorem endTeardownIfDrained_busy (hd : (s.chan n).dmaBusy = true) : s.endTeardownIfDrained n = s := by
  rw [State.endTeardownIfDrained, if_neg (by simp [hd])]

/-- A channel that has left ACTIVE has DMA in flight if it had writes or a read in flight. -/
theorem dmaBusy_atLeave {x y : Channel} (hw : y.writes = x.writes) (hf : y.fetch = x.fetch.atLeave) :
    y.dmaBusy = true ↔ x.writes ≠ [] ∨ ∃ a k, x.fetch = .reading a k := by
  rw [Channel.dmaBusy, hw, hf]
  cases x.fetch <;> simp [Fetch.atLeave]

/-! ### TEARDOWN_CHANNEL (R158) -/

/-- The reply to a TEARDOWN_CHANNEL of channel `n` becomes pending (R158). -/
def State.awaiting (s : State) (n : Nat) (tag : ReqTag) : State :=
  { s with teardownReplies := s.teardownReplies.set n (some tag) }

section
variable (s : State) (n : Nat) (tag : ReqTag)

@[simp] theorem session_awaiting (i : Nat) : (s.awaiting n tag).session i = s.session i := rfl
@[simp] theorem claimAt_awaiting (c : Nat) : (s.awaiting n tag).claimAt c = s.claimAt c := rfl
@[simp] theorem way_awaiting (w : Nat) : (s.awaiting n tag).way w = s.way w := rfl
@[simp] theorem chan_awaiting (k : Nat) : (s.awaiting n tag).chan k = s.chan k := rfl

@[simp] theorem teardownReplies_awaiting : (s.awaiting n tag).teardownReplies.get n = some tag := by
  rw [State.awaiting, Table.get_set, if_pos rfl]

/-- A teardown begun, its reply pending (R158): what its end is decided on. -/
def State.tearing : State := ((s.dropNotices 0 (Notice.faultOf n)).beginTeardown n).awaiting n tag

theorem teardown_eq : s.teardown n tag = (s.tearing n tag).endTeardownIfDrained n := rfl

theorem session_teardown (i : Nat) :
    (s.teardown n tag).session i = ((s.dropNotices 0 (Notice.faultOf n)).beginTeardown n).session i := by
  rw [teardown_eq, session_endTeardownIfDrained, State.tearing, session_awaiting]

theorem claimAt_teardown (c : Nat) :
    (s.teardown n tag).claimAt c = ((s.dropNotices 0 (Notice.faultOf n)).beginTeardown n).claimAt c := by
  rw [teardown_eq, claimAt_endTeardownIfDrained, State.tearing, claimAt_awaiting]

theorem way_teardown (w : Nat) :
    (s.teardown n tag).way w = ((s.dropNotices 0 (Notice.faultOf n)).beginTeardown n).way w := by
  rw [teardown_eq, way_endTeardownIfDrained, State.tearing, way_awaiting]

theorem reply_tearing : (s.tearing n tag).teardownReplies.get n = some tag := by
  rw [State.tearing, teardownReplies_awaiting]

theorem chan_tearing (k : Nat) :
    (s.tearing n tag).chan k = ((s.dropNotices 0 (Notice.faultOf n)).beginTeardown n).chan k := by
  rw [State.tearing, chan_awaiting]

end

theorem chan_dropNotices_other {p : Notice → Bool} (h0 : n ≠ 0) : (s.dropNotices 0 p).chan n = s.chan n := by
  rw [State.chan_dropNotices, if_neg h0]

theorem state_dropNotices (p : Notice → Bool) (k : Nat) : ((s.dropNotices 0 p).chan k).state = (s.chan k).state :=
  (serves_drop s 0 p k).state

/-- The other channels keep their states through a teardown. -/
theorem state_teardown (hk : k ≠ n) : ((s.teardown n tag).chan k).state = (s.chan k).state := by
  rw [teardown_eq, state_endTeardownIfDrained hk, chan_tearing, state_beginTeardown, if_neg hk, state_dropNotices]

theorem dmaBusy_tearing (h0 : n ≠ 0) (tag : ReqTag) : ((s.tearing n tag).chan n).dmaBusy = true ↔
    (s.chan n).writes ≠ [] ∨ ∃ a k, (s.chan n).fetch = .reading a k := by
  obtain ⟨-, -, -, hwrites, hfetch⟩ := chan_beginTeardown (s.dropNotices 0 (Notice.faultOf n)) n
  rw [chan_dropNotices_other h0] at hwrites hfetch
  rw [chan_tearing]
  exact dmaBusy_atLeave hwrites hfetch

/-- A teardown without DMA in flight ends at once: the record is reset, and the OK is written on channel 0 (R139, R158). -/
theorem teardown_drained (h0 : n ≠ 0) (ha : (s.chan 0).state = .active)
    (hd : ¬((s.chan n).writes ≠ [] ∨ ∃ a k, (s.chan n).fetch = .reading a k)) :
    (s.teardown n tag).chan n = Channel.reset ∧
      ((s.teardown n tag).chan 0).answeredLast ⟨.teardownChannel, tag, .ok, .header⟩ := by
  have hidle : ((s.tearing n tag).chan n).dmaBusy = false := by
    rw [← Bool.not_eq_true, dmaBusy_tearing h0]
    exact hd
  have hclosing : ((s.tearing n tag).chan n).state = .closing := by
    rw [chan_tearing, state_beginTeardown, if_pos rfl]
  have hactive : ((s.tearing n tag).chan 0).state = .active := by
    rw [chan_tearing, state_beginTeardown, if_neg (Ne.symm h0), state_dropNotices, ha]
  rw [teardown_eq, endTeardownIfDrained_drained hclosing hidle (reply_tearing s n tag)]
  generalize s.tearing n tag = u at *
  refine ⟨?_, answeredLast_hand ?_⟩
  · rw [State.chan_hand, if_neg (by simp [h0])]
    exact (u.chan_setChan n Channel.reset n).trans (if_pos rfl)
  · exact (congrArg Channel.state ((u.chan_setChan n Channel.reset 0).trans (if_neg (Ne.symm h0)))).trans hactive

/-- A teardown with DMA in flight leaves the channel CLOSING and its reply pending (R139, R158). -/
theorem teardown_busy (h0 : n ≠ 0) (hd : (s.chan n).writes ≠ [] ∨ ∃ a k, (s.chan n).fetch = .reading a k) :
    ((s.teardown n tag).chan n).state = .closing ∧ ((s.teardown n tag).chan n).owed = 0 ∧
      ((s.teardown n tag).chan n).notices = [] ∧ ((s.teardown n tag).chan n).writes = (s.chan n).writes ∧
      (s.teardown n tag).teardownReplies.get n = some tag := by
  obtain ⟨hclosing, howed, hnotices, hwrites, -⟩ := chan_beginTeardown (s.dropNotices 0 (Notice.faultOf n)) n
  rw [chan_dropNotices_other h0] at hwrites
  rw [teardown_eq, endTeardownIfDrained_busy ((dmaBusy_tearing h0 tag).mpr hd), chan_tearing]
  exact ⟨hclosing, howed, hnotices, hwrites, reply_tearing s n tag⟩

theorem sameClock_teardown (s : State) (n : Nat) (tag : ReqTag) : s.sameClock (s.teardown n tag) := by
  have hbegun : s.sameClock ((s.dropNotices 0 (Notice.faultOf n)).beginTeardown n) := sameClock_beginTeardown (s.dropNotices ..) n
  rw [teardown_eq, State.tearing]
  generalize (s.dropNotices 0 (Notice.faultOf n)).beginTeardown n = u at *
  exact sameClock_endTeardownIfDrained (t := u.awaiting n tag) hbegun n

theorem exec_teardownChannel {target : BitVec 8} (ht : targetInRange target = true)
    (hn : s.nextRequest 0 = some (.teardownChannel 0 tag target))
    (hx : (s.chan target.toNat).state = .active ∨ (s.chan target.toNat).state = .faulted) :
    exec (.teardownChannel 0 tag target) s = .next ((s.popRequest 0).teardown target.toNat tag) := by
  have h0 : target.toNat ≠ 0 := by
    rw [targetInRange, decide_eq_true_eq] at ht
    omega
  have hchan : (s.popRequest 0).chan target.toNat = s.chan target.toNat := by rw [chan_popRequest, if_neg h0]
  rw [exec, execTeardownChannel, takeRequest_next hn, State.teardownChannel, if_neg (by simp), targetOf_eq, if_pos ht]
  dsimp only
  rw [Fin.val_zero, hchan]
  rcases hx with hx | hx <;> rw [hx]

end

/-- Settles O31: what the beginning of the teardown frees, its end leaves as it is; that end comes at once where no DMA is in
flight. -/
theorem teardownChannelFrees : Obligations.TeardownChannelFrees := by
  intro s tag target ht hn n x hx
  have h0 : n ≠ 0 := by
    rw [targetInRange, decide_eq_true_eq] at ht
    omega
  have hchan : (s.popRequest 0).chan n = s.chan n := by rw [chan_popRequest, if_neg h0]
  have hstate (k : Nat) : ((s.popRequest 0).chan k).state = (s.chan k).state := by
    rw [chan_popRequest]
    split_ifs with hk <;> simp [hk]
  have hlisted (i : Nat) (o : OpenSession) (ho : (s.session i).state = .opened o) (hch : o.channel = n) (c : Nat)
      (hc : c ∈ o.claims) : c ∈ ((s.popRequest 0).dropNotices 0 (Notice.faultOf n)).claimsOf n :=
    mem_claimsOf.mpr ⟨i, (channel_of_opened ho).trans (congrArg some hch), (SessionRec.claims_of_opened ho).symm ▸ hc⟩
  refine ⟨_, exec_teardownChannel ht hn hx, fun i hi => ?_, fun i o ho hch c hc => ?_, fun i o c w e val ho hch hsole => ?_,
    fun c hc => ?_, fun hw hf => ?_, fun hflight => ?_, fun i hi => ?_, fun k hk => ?_, sameClock_teardown (s.popRequest 0) n tag⟩
  · rw [session_teardown]
    exact session_beginTeardown hi
  · rw [claimAt_teardown]
    exact claimAt_beginTeardown (hlisted i o ho hch c hc)
  · obtain ⟨hc, hheld, hactive, hh, hcv, hq, hval⟩ := hsole
    rw [way_teardown]
    refine way_beginTeardown ⟨e, ⟨hactive, hh, hcv, hq, hheld⟩, ?_⟩ (by simp) (hlisted i o ho hch c hc)
    rw [Entry.vacated, hval]
    rfl
  · rw [claimAt_teardown]
    exact claimAt_beginTeardown_none hc
  · refine teardown_drained h0 ((hstate 0).trans (nextRequest_active hn)) ?_
    rw [hchan]
    rintro (h | ⟨a, k, h⟩)
    exacts [h hw, hf a k h]
  · have hbusy := teardown_busy (s := s.popRequest 0) (tag := tag) h0 (by rw [hchan]; exact hflight)
    rw [hchan] at hbusy
    exact hbusy
  · rw [session_teardown]
    exact session_beginTeardown_other (s := (s.popRequest 0).dropNotices 0 (Notice.faultOf n)) hi
  · rw [state_teardown hk, hstate]

end Sys2Proof.Machine
end

section
/-! PROOFS. The tick (R93, R94, R96): what becomes of each record, and what every other command leaves of time and of the Fence
Counter (R106, R107). -/

namespace Sys2Proof.Machine

section
variable {s t : State} {allow : Nat → ChanState → ChanState → Prop} {own : Nat → Prop}

/-! ### TICK (R94) -/

theorem exec_tick (h : s.ready = true) : exec .tick s = .next s.tickOnce := by rw [exec, execTick, if_pos h]

theorem claim_tickOnce (s : State) (c : Nat) : s.tickOnce.claim c = (s.claim c).atTick (s.now + 1) := by
  rw [State.claim, State.tickOnce, Table.get_map _ _ rfl, State.claim]

theorem claim_tickOnce_used {c : Nat} {b : Claim} (hb : s.claimAt c = some b) :
    s.tickOnce.claim c = ⟨(s.claim c).tag, some { b with state := b.state.atTick (s.now + 1) }⟩ := by
  rw [claim_tickOnce, ClaimRec.atTick, show (s.claim c).claim = some b from hb, Option.map_some]

/-- A claim without a wait deadline is not changed by a tick. -/
theorem ClaimState.atTick_of_no_deadline {st : ClaimState} (now : Tick) (h : st.wait.bind (·.deadline) = none) :
    st.atTick now = st := by
  rcases st with ⟨m, tag, d⟩ | m | ⟨x, m, tag, d⟩
  · obtain rfl : d = none := h
    rfl
  · rfl
  · obtain rfl : d = none := h
    rfl

theorem claim_tickOnce_of_no_deadline {c : Nat}
    (h : ∀ b, s.claimAt c = some b → b.state.wait.bind (·.deadline) = none) : s.tickOnce.claim c = s.claim c := by
  rcases hb : s.claimAt c with _ | b
  · rw [claim_tickOnce, ClaimRec.atTick, show (s.claim c).claim = none from hb, Option.map_none, ← hb]
    rfl
  · rw [claim_tickOnce_used hb, ClaimState.atTick_of_no_deadline _ (h b hb), ← hb]
    rfl

/-- Settles O45: the tick maps every session and claim record to what its own deadline becomes. -/
theorem tickAdvances : Obligations.TickAdvances := by
  intro s hready
  refine ⟨s.tickOnce, exec_tick hready, rfl, fun i o ho => ?_, fun i hno => ?_, fun c b m tag d hb hst => ?_,
    fun c b x m tag d hb hst => ?_, fun c hno => claim_tickOnce_of_no_deadline hno⟩
  · rw [session_tickOnce, SessionRec.atTick, ho]
    rfl
  · rw [session_tickOnce, SessionRec.atTick]
    split
    · exact absurd ‹_› (hno _)
    · rfl
    · rfl
  · rw [claim_tickOnce_used hb, hst]
    rfl
  · rw [claim_tickOnce_used hb, hst]
    rfl

/-! ### The Fence Counter (R106, R107) -/

theorem counter_eq (h : t.nextSerial = s.nextSerial) : t.counter = s.counter := by rw [State.counter, h, State.counter]

/-- A grant advances the counter by one or exhausts it for X, and leaves it for S and U. -/
theorem counter_le_hold (s : State) (c w : Nat) (m : Mode) : s.counter ≤ (s.hold c w m).counter := by
  unfold State.counter
  rw [State.nextSerial_hold]
  split_ifs with hm
  · rcases s.nextSerial with _ | n
    · rfl
    · rw [Option.bind_some]
      split_ifs with hlast
      · exact Nat.le_of_lt n.isLt
      · have hne : n.toNat ≠ 2 ^ 48 - 1 := fun h => hlast ((allOnes_iff n).mpr h)
        bv_omega
  · rfl

/-! ### The course of time -/

/-- From `s` to `t` time, READY and the queue stay, and the counter does not fall: what every command but a tick, a reset and
the end of start-up comes to. -/
structure State.Onward (s t : State) : Prop where
  counter : s.counter ≤ t.counter
  ready : t.ready = s.ready
  now : t.now = s.now
  period : t.period = s.period
  pending : t.pending = s.pending

theorem State.Onward.refl (s : State) : s.Onward s := ⟨le_rfl, rfl, rfl, rfl, rfl⟩

theorem State.Onward.trans {u : State} (h : s.Onward t) (h' : t.Onward u) : s.Onward u :=
  ⟨h.counter.trans h'.counter, h'.ready.trans h.ready, h'.now.trans h.now, h'.period.trans h.period,
    h'.pending.trans h.pending⟩

theorem counter_le_coreMove (h : CoreMove s t) : s.counter ≤ t.counter := by
  cases h
  case conversionGranted | waitGranted =>
    exact (counter_eq (State.modEntry_nextSerial ..)).ge.trans (counter_le_hold ..)
  all_goals exact (counter_eq (by simp)).ge

theorem counter_le_move (h : Move allow own s t) : s.counter ≤ t.counter := by
  cases h
  case core h => exact counter_le_coreMove h
  case grantedAtOnce => exact (counter_eq (State.allocate_nextSerial ..)).ge.trans (counter_le_hold ..)
  case upgradedAtOnce => exact counter_le_hold ..
  all_goals exact (counter_eq (by simp)).ge

theorem State.Onward.move (h : Move allow own s t) : s.Onward t := by
  have hcounter := counter_le_move h
  cases h
  case core h =>
    obtain ⟨-, hready, hnow, hperiod, -, -, hpending⟩ := coreMove_frame h
    exact ⟨hcounter, hready, hnow, hperiod, hpending⟩
  all_goals exact ⟨hcounter, by simp, by simp, by simp, by simp⟩

theorem State.Onward.moves (h : Moves allow own s t) : s.Onward t := by
  induction h with
  | refl => exact .refl s
  | tail _ h ih => exact ih.trans (.move h)

end

/-- Settles O59: every command but a tick, a reset and the end of start-up is a chain of moves, and only a grant moves the
counter. -/
theorem timeAndSerialsOnlyAdvance : Obligations.TimeAndSerialsOnlyAdvance := by
  intro s t c rest hp h hr hu
  rw [step, hp] at h
  by_cases ht : c = .tick
  · subst ht
    cases h
    refine ⟨?_, ?_, ?_, fun hne => absurd rfl hne⟩ <;> split_ifs <;> rfl
  · obtain ⟨hcounter, hready, hnow, hperiod, hpending⟩ := State.Onward.moves (exec_moves h ht hr hu)
    exact ⟨hcounter, hready, hpending, fun _ => ⟨hnow, hperiod⟩⟩

end Sys2Proof.Machine
end

section
/-! PROOFS. SET_LIMITS and SET_TICK (R96, R162), and the writes that are stored or ignored (R95, R151, R152, R172). -/

namespace Sys2Proof.Machine

section
variable {s : State} {tag : ReqTag}

/-! ### SET_LIMITS (R162) -/

/-- A request on channel `ch` that changes the record of another channel and answers. -/
theorem popRequest_setChan_hand {ch n : Nat} {x : Channel} (r : Reply) (ha : (s.chan ch).state = .active) (hne : n ≠ ch) :
    ((s.popRequest ch).setChan n x).hand ch r = (s.setChan n x).answered ch r := by
  refine hand_answered r ?_ ?_ fun c => ?_
  · rw [State.chan_setChan, if_neg hne.symm]
    exact ha
  · rw [State.chan_setChan, if_neg hne.symm, chan_popRequest, if_pos rfl, State.chan_setChan, if_neg hne.symm]
  · simp only [State.popRequest, State.setChan, Table.set_comm _ hne, Table.set_set]

theorem setLimits_of_inRange {target : BitVec 8} {a b : BitVec 16} (htarget : targetInRange target = true)
    (ha : a.toNat ≤ 512) (hb : b.toNat ≤ 32768)
    (hst : (s.chan target.toNat).state = .active ∨ (s.chan target.toNat).state = .faulted) :
    s.setLimits 0 tag target a b = s.limit 0 target.toNat tag a.toNat b.toNat := by
  have hlimits : ¬(512 < a ∨ 32768 < b) := not_or.mpr ⟨Nat.not_lt.mpr ha, Nat.not_lt.mpr hb⟩
  rw [State.setLimits, if_neg (by decide), targetOf_eq, if_pos htarget]
  dsimp only
  rw [if_neg hlimits]
  rcases hst with h | h <;> rw [h]

/-- The limits of a target other than channel 0 against its use. -/
theorem limit_popRequest {n a b : Nat} (h0 : n ≠ 0) (ha : (s.chan 0).state = .active) :
    (s.popRequest 0).limit 0 n tag a b =
      if a < s.sessionCount n ∨ b < s.claimCount n then s.answered 0 ⟨.setLimits, tag, .quota, .header⟩
      else (s.setChan n { s.chan n with sessionLimit := a, claimLimit := b }).answered 0 ⟨.setLimits, tag, .ok, .header⟩ := by
  have hchan : (s.popRequest 0).chan n = s.chan n := by rw [chan_popRequest, if_neg h0]
  rw [State.limit, hchan]
  exact if_congr Iff.rfl (popRequest_hand _ ha) (popRequest_setChan_hand _ ha h0)

theorem exec_setLimits {target : BitVec 8} {a b : BitVec 16} (htarget : targetInRange target = true)
    (ha : a.toNat ≤ 512) (hb : b.toNat ≤ 32768) (hn : s.nextRequest 0 = some (.setLimits 0 tag target a b))
    (hst : (s.chan target.toNat).state = .active ∨ (s.chan target.toNat).state = .faulted) :
    exec (.setLimits 0 tag target a b) s =
      .next (if a.toNat < s.sessionCount target.toNat ∨ b.toNat < s.claimCount target.toNat then
          s.answered 0 ⟨.setLimits, tag, .quota, .header⟩
        else (s.setChan target.toNat { s.chan target.toNat with sessionLimit := a.toNat, claimLimit := b.toNat }).answered 0
          ⟨.setLimits, tag, .ok, .header⟩) := by
  have h0 : target.toNat ≠ 0 := Nat.one_le_iff_ne_zero.mp (of_decide_eq_true htarget).1
  have hchan : (s.popRequest 0).chan target.toNat = s.chan target.toNat := by rw [chan_popRequest, if_neg h0]
  rw [exec_request (ch := 0) rfl hn, ← limit_popRequest h0 (nextRequest_active hn)]
  exact congrArg _ (setLimits_of_inRange (s := s.popRequest 0) htarget ha hb (hchan ▸ hst))

/-! ### SET_TICK (R96) -/

theorem exec_setTick {period : BitVec 32} (hn : s.nextRequest 0 = some (.setTick 0 tag period)) :
    exec (.setTick 0 tag period) s =
      .next (if period.toNat < 10 ∨ 1000000 < period.toNat then s.answered 0 ⟨.setTick, tag, .badRequest, .header⟩
        else { s with requestedPeriod := some period }.answered 0 ⟨.setTick, tag, .ok, .header⟩) := by
  have ha := nextRequest_active hn
  rw [exec_request (ch := 0) rfl hn, State.handled, State.setTick, if_neg (by decide)]
  refine congrArg _ (if_congr Iff.rfl (popRequest_hand _ ha) ?_)
  exact popRequest_hand (s := { s with requestedPeriod := some period }) _ ha

end

/-- Settles O34: the use of either limit, and the range of the period, decide. -/
theorem setLimitsAndTickStore : Obligations.SetLimitsAndTickStore := by
  refine ⟨fun s tag target a b htarget ha hb hn => ?_, fun s tag period hn => ?_⟩
  · intro n hst
    rw [exec_setLimits htarget ha hb hn hst]
    refine ⟨fun hbelow => by rw [if_pos hbelow], fun hs hc => ?_⟩
    rw [if_neg (not_or.mpr ⟨Nat.not_lt.mpr hs, Nat.not_lt.mpr hc⟩)]
  · rw [exec_setTick hn]
    refine ⟨fun ⟨hlow, hhigh⟩ => ?_, fun hout => by rw [if_pos hout]⟩
    rw [if_neg (not_or.mpr ⟨Nat.not_lt.mpr hlow, Nat.not_lt.mpr hhigh⟩)]

/-! ### Register writes (R95, R151, R152, R172) -/

section
variable {s : State}

theorem exec_mgmtRingRegisterWrite_stored (hready : s.ready = true)
    (hst : (s.chan 0).state = .off ∨ (s.chan 0).state = .faulted) (reg : RingRegister) (value : BitVec 64) :
    exec (.mgmtRingRegisterWrite reg value) s = .next { s with mgmt := s.mgmt.store reg value } := by
  rw [exec, execMgmtRingRegisterWrite, if_pos ⟨hready, hst⟩]

theorem exec_mgmtRingRegisterWrite_ignored
    (h : ¬(s.ready = true ∧ ((s.chan 0).state = .off ∨ (s.chan 0).state = .faulted))) (reg : RingRegister)
    (value : BitVec 64) : exec (.mgmtRingRegisterWrite reg value) s = .next s := by
  rw [exec, execMgmtRingRegisterWrite, if_neg h]

theorem exec_otherRegisterWrite (offset : BitVec 13) (bytes : Nat) (value : BitVec 64) :
    exec (.otherRegisterWrite offset bytes value) s = .next s := rfl

end

/-- Settles O41: a ring register write tests READY and channel 0's state, every other write and the tick READY alone. -/
theorem registersStoredOrIgnored : Obligations.RegistersStoredOrIgnored := by
  refine ⟨fun s value hready => ⟨fun hst => ?_, fun hactive reg => ?_, fun offset bytes => ?_⟩, fun s c hnot hc => ?_⟩
  · have hstored (reg : RingRegister) := exec_mgmtRingRegisterWrite_stored hready hst reg value
    exact ⟨hstored _, hstored _, hstored _, hstored _, hstored _, hstored _, hstored _, hstored _, hstored _⟩
  · exact exec_mgmtRingRegisterWrite_ignored (by simp [hactive]) reg value
  · exact exec_otherRegisterWrite offset bytes value
  · have hready : ¬s.ready = true := by simp [hnot]
    rcases hc with ⟨ch, value, rfl | rfl⟩ | ⟨value, rfl | rfl⟩ | ⟨reg, value, rfl⟩ | ⟨offset, bytes, value, rfl⟩ | rfl
    · rw [exec, execReqProdWrite, if_neg hready]
    · rw [exec, execRplConsWrite, if_neg hready]
    · rw [exec, execMgmtControlEnable, if_neg hready]
    · rw [exec, execMgmtControlRestart, if_neg hready]
    · exact exec_mgmtRingRegisterWrite_ignored (fun h => hready h.1) reg value
    · exact exec_otherRegisterWrite offset bytes value
    · rw [exec, execTick, if_neg hready]

end Sys2Proof.Machine
end

section
/-! PROOFS. The serials stay in order (R106 to R108): the moves that draw none, the grant that draws one, and every step. -/

namespace Sys2Proof.Machine

section
variable {s t : State} {c d w : Nat} {m : Mode} {n : Serial} {allow : Nat → ChanState → ChanState → Prop} {own : Nat → Prop}

/-! ### The serial of a claim (R106, R108) -/

/-- The serial that claim record `c` carries: none while it is free or has drawn none. -/
def State.claimSerial (s : State) (c : Nat) : Option Serial := (s.claimAt c).bind (·.serial)

theorem claimSerial_eq_some : s.claimSerial c = some n ↔ ∃ b, s.claimAt c = some b ∧ b.serial = some n :=
  Option.bind_eq_some_iff

theorem claimSerial_of_claimAt {b : Claim} (hb : s.claimAt c = some b) : s.claimSerial c = b.serial := by
  rw [State.claimSerial, hb]
  rfl

theorem claimSerial_congr (h : t.claimAt c = s.claimAt c) : t.claimSerial c = s.claimSerial c := by
  rw [State.claimSerial, h, State.claimSerial]

/-- A change of one claim that leaves its serial alone. -/
theorem claimSerial_of_map {f : Claim → Claim} (hf : ∀ b, (f b).serial = b.serial)
    (h : ∀ k, t.claimAt k = if k = c then (s.claimAt c).map f else s.claimAt k) (k : Nat) :
    t.claimSerial k = s.claimSerial k := by
  rw [State.claimSerial, h, State.claimSerial]
  split_ifs with hk
  · rw [hk, Option.bind_map]
    exact congrArg _ (funext hf)
  · rfl

theorem SerialsKept.claim_drawn (hs : SerialsKept s) (h : s.claimSerial c = some n) : s.drawn n := by
  obtain ⟨b, hb, hn⟩ := claimSerial_eq_some.mp h
  exact hs.claims c b n hb hn

theorem SerialsKept.claim_unique (hs : SerialsKept s) (h : s.claimSerial c = some n) (h' : s.claimSerial d = some n) :
    c = d := by
  obtain ⟨b, hb, hn⟩ := claimSerial_eq_some.mp h
  obtain ⟨b', hb', hn'⟩ := claimSerial_eq_some.mp h'
  exact hs.distinct c d b b' n hb hb' hn hn'

theorem SerialsKept.of_claimSerial (hzero : s.nextSerial ≠ some 0)
    (hclaims : ∀ c n, s.claimSerial c = some n → s.drawn n) (hentries : ∀ w, s.drawn (s.entry w).serial)
    (hdistinct : ∀ c d n, s.claimSerial c = some n → s.claimSerial d = some n → c = d) : SerialsKept s where
  zero := hzero
  claims c b n hb hn := hclaims c n (claimSerial_eq_some.mpr ⟨b, hb, hn⟩)
  entries := hentries
  distinct c d b b' n hb hb' hn hn' :=
    hdistinct c d n (claimSerial_eq_some.mpr ⟨b, hb, hn⟩) (claimSerial_eq_some.mpr ⟨b', hb', hn'⟩)

/-- 0, the serial of a new entry, is never the next one (R106). -/
theorem SerialsKept.zero_drawn (hs : SerialsKept s) : s.drawn 0 := by
  intro m hm
  have hne : m ≠ 0 := fun h => hs.zero (h ▸ hm)
  bv_omega

/-! ### Changes that draw no serial -/

/-- From `s` to `t` no serial is drawn: the next one stays, a serial that a claim carries it carried before, and an entry keeps its
serial or is a new one. -/
structure NoDraw (s t : State) : Prop where
  next : t.nextSerial = s.nextSerial
  claims : ∀ c n, t.claimSerial c = some n → s.claimSerial c = some n
  entries : ∀ w, (t.entry w).serial = (s.entry w).serial ∨ (t.entry w).serial = 0

theorem SerialsKept.of_noDraw (hs : SerialsKept s) (h : NoDraw s t) : SerialsKept t := by
  have hdrawn {n : Serial} (hn : s.drawn n) : t.drawn n := fun m hm => hn m (h.next ▸ hm)
  refine .of_claimSerial (h.next ▸ hs.zero) (fun c n hc => hdrawn (hs.claim_drawn (h.claims c n hc))) (fun w => ?_)
    fun c d n hc hd => hs.claim_unique (h.claims c n hc) (h.claims d n hd)
  rcases h.entries w with he | he <;> rw [he]
  · exact hdrawn (hs.entries w)
  · exact hdrawn hs.zero_drawn

theorem NoDraw.of_eq (hn : t.nextSerial = s.nextSerial) (hc : ∀ c, t.claimAt c = s.claimAt c)
    (hw : ∀ w, t.entry w = s.entry w) : NoDraw s t :=
  ⟨hn, fun c _ h => claimSerial_congr (hc c) ▸ h, fun w => .inl (by rw [hw])⟩

theorem NoDraw.trans {u : State} (h : NoDraw s t) (h' : NoDraw t u) : NoDraw s u := by
  refine ⟨h'.next.trans h.next, fun c n hc => h.claims c n (h'.claims c n hc), fun w => ?_⟩
  rcases h'.entries w with he | he <;> rw [he]
  · exact h.entries w
  · exact .inr rfl

theorem Way.serial_update {x : Way} {f : Entry → Entry} (hf : ∀ e, (f e).serial = e.serial) :
    (x.update f).entry.serial = x.entry.serial := by
  cases x with
  | active e => exact hf e
  | free => rfl
  | dormant e => rfl

/-- The entries of some ways updated, their serials left alone. -/
theorem entrySerial_of_update (P : Nat → Prop) [DecidablePred P] {f : Entry → Entry} (hf : ∀ e, (f e).serial = e.serial)
    (hw : ∀ k, t.way k = if P k then (s.way k).update f else s.way k) (k : Nat) :
    (t.entry k).serial = (s.entry k).serial := by
  rw [State.entry, hw, State.entry]
  split_ifs
  · exact Way.serial_update hf
  · rfl

/-- The entry of way `w` updated, its serial left alone. -/
theorem entrySerial_of_updateAt {f : Entry → Entry} (hf : ∀ e, (f e).serial = e.serial)
    (hw : ∀ k, t.way k = if k = w then (s.way w).update f else s.way k) (k : Nat) :
    (t.entry k).serial = (s.entry k).serial :=
  entrySerial_of_update (· = w) hf (fun k => by rw [hw]; split_ifs with h; exacts [h ▸ rfl, rfl]) k

/-- Way `w` becomes `x`, with the serial that stood there or as a new entry. -/
theorem NoDraw.of_way {x : Way} (hn : t.nextSerial = s.nextSerial) (hc : ∀ c, t.claimAt c = s.claimAt c)
    (hw : ∀ k, t.way k = if k = w then x else s.way k)
    (hx : x.entry.serial = (s.entry w).serial ∨ x.entry.serial = 0) : NoDraw s t := by
  refine ⟨hn, fun c _ h => claimSerial_congr (hc c) ▸ h, fun k => ?_⟩
  rw [State.entry, hw]
  split_ifs with hk
  · rw [hk]
    exact hx
  · exact .inl rfl

/-! ### The operations that draw no serial -/

theorem noDraw_modClaim (s : State) (c : Nat) {f : Claim → Claim} (hf : ∀ b, (f b).serial = b.serial) :
    NoDraw s (s.modClaim c f) :=
  ⟨by simp, fun k _ h => claimSerial_of_map hf (fun k => s.claimAt_modClaim c k f) k ▸ h, fun w => .inl (by simp)⟩

theorem noDraw_modEntry (s : State) (w : Nat) {f : Entry → Entry} (hf : ∀ e, (f e).serial = e.serial) :
    NoDraw s (s.modEntry w f) :=
  ⟨by simp, fun c _ h => claimSerial_congr (s.claimAt_modEntry w f c) ▸ h,
    fun k => .inl (entrySerial_of_updateAt hf (fun k => s.way_modEntry' w k f) k)⟩

theorem noDraw_endConversion (s : State) (c : Nat) : NoDraw s (s.endConversion c) :=
  ⟨by simp, fun k _ h => claimSerial_of_map (f := fun b => { b with state := b.state.ended }) (fun _ => rfl)
      (fun k => s.claimAt_endConversion c k) k ▸ h,
    fun k => .inl (entrySerial_of_update (f := fun e => { e with converts := e.converts.filter (· != c) })
      (fun k => ((s.claimAt c).any fun b => b.way == k && b.state.isConverting) = true) (fun _ => rfl)
      (s.way_endConversion c) k)⟩

/-- The freed record carries no serial (R28). -/
theorem noDraw_freeClaim (s : State) (c : Nat) : NoDraw s (s.freeClaim c) := by
  classical
  refine ⟨by simp, fun k n h => ?_, fun k => .inl (entrySerial_of_update (f := Entry.without c)
    (fun k => ∃ b, s.claimAt c = some b ∧ b.way = k) (fun _ => rfl) (fun k => by rw [s.way_freeClaim]) k)⟩
  rw [State.claimSerial, State.claimAt_freeClaim] at h
  split_ifs at h
  · cases h
  · exact h

/-- A new claim has drawn no serial (R26). -/
theorem noDraw_allocate (s : State) (c i w : Nat) (st : ClaimState) : NoDraw s (s.allocate c i w st) := by
  refine ⟨by simp, fun k n h => ?_, fun k => .inl (entrySerial_of_updateAt (fun e => ?_) (s.way_allocate c i w · st) k)⟩
  · rw [State.claimSerial, State.claimAt_allocate] at h
    split_ifs at h
    · cases h
    · exact h
  · split_ifs <;> rfl

/-- A way that becomes DORMANT keeps its serial, and a FREE one has none (R14, R15). -/
theorem noDraw_settle (s : State) (w : Nat) : NoDraw s (s.settle w) := by
  refine .of_way (by simp) (by simp) (s.way_settle w) ?_
  rw [State.entry]
  rcases s.way w with _ | e | e
  · exact .inl rfl
  · dsimp only
    split_ifs
    · exact .inr rfl
    · exact .inl rfl
    · exact .inl rfl
  · exact .inl rfl

theorem noDraw_leaveDormant (s : State) (w : Nat) {x : Way}
    (hx : x.entry.serial = (s.entry w).serial ∨ x.entry.serial = 0) : NoDraw s (s.leaveDormant w x) :=
  .of_way (by simp) (by simp) (s.way_leaveDormant w · x) hx

/-- A new entry has serial 0 (R10, R106). -/
theorem noDraw_createAt (s : State) (w : Nat) (k : Key) : NoDraw s (s.createAt w k) :=
  .of_way (by simp) (by simp) (s.way_createAt w · k) (.inr rfl)

/-! ### The grant that draws a serial (R37, R106, R107) -/

/-- A grant in mode `m` draws serial `n`. -/
def State.draws (s : State) (m : Mode) (n : Serial) : Prop := m = .exclusive ∧ s.nextSerial = some n

theorem claimSerial_hold (h : (s.hold c w m).claimSerial d = some n) :
    s.claimSerial d = some n ∨ d = c ∧ s.draws m n := by
  obtain ⟨b, hb, hn⟩ := claimSerial_eq_some.mp h
  rw [State.claimAt_hold] at hb
  by_cases hd : d = c
  · rw [if_pos hd] at hb
    obtain ⟨b₀, hb₀, rfl⟩ := Option.map_eq_some_iff.mp hb
    have hold (h₀ : b₀.serial = some n) : s.claimSerial d = some n := claimSerial_eq_some.mpr ⟨b₀, hd ▸ hb₀, h₀⟩
    by_cases hm : m = .exclusive
    · rcases Option.or_eq_some_iff.mp ((if_pos hm).symm.trans hn) with hnext | ⟨-, h₀⟩
      · exact .inr ⟨hd, hm, hnext⟩
      · exact .inl (hold h₀)
    · exact .inl (hold ((if_neg hm).symm.trans hn))
  · rw [if_neg hd] at hb
    exact .inl (claimSerial_eq_some.mpr ⟨b, hb, hn⟩)

theorem entrySerial_hold (s : State) (c w k : Nat) (m : Mode) :
    ((s.hold c w m).entry k).serial = (s.entry k).serial ∨ s.draws m ((s.hold c w m).entry k).serial := by
  rw [State.entry, State.way_hold, State.entry]
  by_cases hk : k = w
  · rw [if_pos hk, hk]
    rcases s.way w with _ | e | e
    · exact .inl rfl
    · rcases hn : s.nextSerial with _ | n
      · exact .inl (ite_self _)
      · by_cases hm : m = .exclusive
        · exact .inr ⟨hm, hn.trans (congrArg some (if_pos hm).symm)⟩
        · exact .inl (if_neg hm)
    · exact .inl rfl
  · rw [if_neg hk]
    exact .inl rfl

/-- The serial that a grant draws lies below the next one from then on, as those drawn before do. -/
theorem drawn_hold (h : s.drawn n ∨ s.draws m n) : (s.hold c w m).drawn n := by
  intro p hp
  rw [State.nextSerial_hold] at hp
  split_ifs at hp with hm
  · obtain ⟨q, hq, hp⟩ := Option.bind_eq_some_iff.mp hp
    split_ifs at hp with hlast
    have hle : n ≤ q := by
      rcases h with h | ⟨-, hn⟩
      · exact BitVec.le_of_lt (h q hq)
      · rw [hn] at hq
        exact Option.some.inj hq ▸ BitVec.le_refl _
    have hne : q.toNat ≠ 2 ^ 48 - 1 := fun h => hlast ((allOnes_iff q).mpr h)
    cases hp
    bv_omega
  · rcases h with h | ⟨hx, -⟩
    · exact h p hp
    · exact absurd hx hm

/-- After the last serial the counter is exhausted and does not wrap to 0 (R107). -/
theorem nextSerial_hold_ne_zero (h : s.nextSerial ≠ some 0) : (s.hold c w m).nextSerial ≠ some 0 := by
  intro hp
  rw [State.nextSerial_hold] at hp
  split_ifs at hp with hm
  · obtain ⟨q, hq, hp⟩ := Option.bind_eq_some_iff.mp hp
    split_ifs at hp with hlast
    have hne : q.toNat ≠ 2 ^ 48 - 1 := fun h => hlast ((allOnes_iff q).mpr h)
    have hwrap : q + 1 = 0 := Option.some.inj hp
    bv_omega
  · exact h hp

/-- No claim carries the serial that a grant draws (R108). -/
theorem SerialsKept.not_carried (hs : SerialsKept s) (hn : s.draws m n) : s.claimSerial c ≠ some n := fun h =>
  BitVec.lt_irrefl n (hs.claim_drawn h n hn.2)

theorem SerialsKept.hold (hs : SerialsKept s) (c w : Nat) (m : Mode) : SerialsKept (s.hold c w m) := by
  refine .of_claimSerial (nextSerial_hold_ne_zero hs.zero)
    (fun d n h => drawn_hold ((claimSerial_hold h).imp hs.claim_drawn And.right)) (fun k => drawn_hold ?_)
    fun d d' n h h' => ?_
  · rcases entrySerial_hold s c w k m with h | h
    · rw [h]
      exact .inl (hs.entries k)
    · exact .inr h
  · rcases claimSerial_hold h with h | ⟨hd, hn⟩ <;> rcases claimSerial_hold h' with h' | ⟨hd', hn'⟩
    · exact hs.claim_unique h h'
    · exact absurd h (hs.not_carried hn')
    · exact absurd h' (hs.not_carried hn)
    · exact hd.trans hd'.symm

/-! ### Every step -/

theorem SerialsKept.core (h : CoreMove s t) (hs : SerialsKept s) : SerialsKept t := by
  cases h
  case conversionGranted => exact (hs.of_noDraw (noDraw_modEntry _ _ fun _ => by rfl)).hold ..
  case waitGranted => exact (hs.of_noDraw (noDraw_modEntry _ _ fun _ => by rfl)).hold ..
  all_goals refine hs.of_noDraw ?_
  case noticed => exact noDraw_modClaim _ _ fun _ => rfl
  case conversionEnded => exact noDraw_endConversion ..
  case freed => exact noDraw_freeClaim ..
  case valued => exact noDraw_modEntry _ _ fun _ => rfl
  case settled => exact noDraw_settle ..
  case interrupt => exact .of_eq rfl (fun _ => rfl) fun _ => rfl
  case choose => exact .of_eq rfl (fun _ => rfl) fun _ => rfl
  all_goals exact .of_eq (by simp) (by simp) (by simp)

theorem SerialsKept.move (h : Move allow own s t) (hs : SerialsKept s) : SerialsKept t := by
  cases h
  case core h => exact hs.core h
  case grantedAtOnce => exact (hs.of_noDraw (noDraw_allocate ..)).hold ..
  case upgradedAtOnce => exact hs.hold ..
  all_goals refine hs.of_noDraw ?_
  case queued => exact noDraw_allocate ..
  case downgraded => exact noDraw_modClaim _ _ fun _ => rfl
  case converting => exact (noDraw_modClaim _ _ fun _ => by rfl).trans (noDraw_modEntry _ _ fun _ => rfl)
  case created => exact noDraw_createAt ..
  case evicted => exact (noDraw_leaveDormant _ _ (.inr rfl)).trans (noDraw_createAt ..)
  case discarded => exact noDraw_leaveDormant _ _ (.inr rfl)
  case reactivated hw => exact noDraw_leaveDormant _ _ (.inl (by rw [entry_of_dormant hw]; rfl))
  case teardownReply => exact .of_eq rfl (fun _ => rfl) fun _ => rfl
  case registers => exact .of_eq rfl (fun _ => rfl) fun _ => rfl
  case requestPeriod => exact .of_eq rfl (fun _ => rfl) fun _ => rfl
  all_goals exact .of_eq (by simp) (by simp) (by simp)

theorem SerialsKept.moves (h : Moves allow own s t) (hs : SerialsKept s) : SerialsKept t := by
  induction h with
  | refl => exact hs
  | tail _ h ih => exact ih.move h

/-- A tick changes deadlines only (R94). -/
theorem noDraw_tickOnce (s : State) : NoDraw s s.tickOnce := by
  refine ⟨rfl, fun c n h => ?_, fun _ => .inl rfl⟩
  rw [State.claimSerial, claimAt_tickOnce, Option.bind_map] at h
  exact h

theorem SerialsKept.cleared (s : State) (ready : Bool) : SerialsKept (s.cleared ready) :=
  reset_serialsKept.of_noDraw (.of_eq rfl (fun _ => rfl) fun _ => rfl)

theorem SerialsKept.exec {c : Instr} (h : exec c s = .next t) (hs : SerialsKept s) : SerialsKept t := by
  by_cases htick : c = .tick
  · subst htick
    cases h
    split_ifs
    · exact hs.of_noDraw (noDraw_tickOnce s)
    · exact hs
  by_cases hreset : c = .deviceReset
  · subst hreset
    cases h
    exact .cleared ..
  by_cases hstart : c = .startupEnd
  · subst hstart
    cases h
    split_ifs
    · exact hs
    · exact .cleared ..
  exact hs.moves (exec_moves h htick hreset hstart)

end

/-- Settles O55: only a grant in X draws a serial, the next one, which no claim carries yet, and the counter moves past it. -/
theorem serialsKeptByStep : Obligations.SerialsKeptByStep := by
  intro s t hs h
  unfold step at h
  split at h
  · exact SerialsKept.exec h (hs.of_noDraw (.of_eq rfl (fun _ => rfl) fun _ => rfl))
  · cases h
    exact hs

end Sys2Proof.Machine
end

section
/-! PROOFS. CHECK_FENCE (R111, R112): the verdict by the entry of the key, and the answer past the handle check. -/

namespace Sys2Proof.Machine

section
variable {s : State} {ch : Fin 16} {tag : ReqTag} {h : SessionHandle} {i c w : Nat} {o : OpenSession} {k : Key} {e : Entry}
  {b : Claim} {serial : Serial}

/-! ### The verdict (R112) -/

theorem fenceVerdict_absent (hl : s.lookup k = none) : s.fenceVerdict k serial = (.stale, .absent, 0) := by
  rw [State.fenceVerdict, hl]

theorem fenceVerdict_dormant (hl : s.lookup k = some w) (hw : s.way w = .dormant e) :
    s.fenceVerdict k serial = (.stale, .noHolder, e.serial) := by
  rw [State.fenceVerdict, hl]
  dsimp only
  rw [hw]

/-- No holder of X is found where no holder holds X. -/
theorem exclusiveHolder_of_none (h : ∀ c ∈ e.holders, s.heldMode c ≠ some .exclusive) : s.exclusiveHolder e = none :=
  List.find?_eq_none.mpr fun c hc => by simp [h c hc]

theorem fenceVerdict_no_holder (hl : s.lookup k = some w) (hw : s.way w = .active e) (hx : s.exclusiveHolder e = none) :
    s.fenceVerdict k serial = (.stale, .noHolder, e.serial) := by
  rw [State.fenceVerdict, hl]
  dsimp only
  rw [hw]
  dsimp only
  rw [hx]

theorem fenceVerdict_holder (hl : s.lookup k = some w) (hw : s.way w = .active e) (hx : s.exclusiveHolder e = some c) :
    s.fenceVerdict k serial = if s.claimSerial c = some serial then (.current, .none, e.serial)
      else (.stale, .superseded, e.serial) := by
  rw [State.fenceVerdict, hl]
  dsimp only
  rw [hw]
  dsimp only
  rw [hx]
  rfl

/-! ### A CHECK_FENCE past its handle check (R111) -/

/-- The caller of a CHECK_FENCE passes the handle check (R111): it names no session, and `base` is `s` itself, or it names an
OPEN session, and `base` is `s` with that session renewed. -/
def State.fenceCaller (s : State) (ch : Nat) (h : SessionHandle) (base : State) : Prop :=
  (h = noSession ∧ base = s) ∨ ∃ i o, s.namesOpen ch h i o ∧ base = s.renewed i o

/-- The reply to a CHECK_FENCE past its handle check: refused without access, and else the verdict (R111, R112). -/
def State.fenceReply (s : State) (ch : Nat) (tag : ReqTag) (k : Key) (serial : Serial) : Reply :=
  if (s.chan ch).access.get k.domain.toNat = .none then ⟨.checkFence, tag, .notPermitted, .header⟩
  else ⟨.checkFence, tag, .ok,
    .fence (s.fenceVerdict k serial).1 (s.fenceVerdict k serial).2.1 (s.fenceVerdict k serial).2.2⟩

theorem checkFenceChecked_eq (s : State) (ch : Nat) (tag : ReqTag) (k : Key) (serial : Serial) :
    s.checkFenceChecked ch tag k serial = s.hand ch (s.fenceReply ch tag k serial) := by
  rw [State.checkFenceChecked, State.fenceReply]
  split_ifs <;> rfl

/-- The taking of the request changes nothing that the reply reads. -/
theorem fenceReply_popRequest (s : State) (n ch : Nat) (tag : ReqTag) (k : Key) (serial : Serial) :
    (s.popRequest n).fenceReply ch tag k serial = s.fenceReply ch tag k serial := by
  rw [State.fenceReply, popChan_access]
  rfl

/-- Nor does the renewal of the caller's session. -/
theorem fenceReply_begun (s : State) (n i : Nat) (o : OpenSession) (ch : Nat) (tag : ReqTag) (k : Key) (serial : Serial) :
    (s.begun n i o).fenceReply ch tag k serial = s.fenceReply ch tag k serial :=
  fenceReply_popRequest s n ch tag k serial

/-- A CHECK_FENCE in range on a client channel whose caller passes the handle check is answered, and nothing else changes but
the renewal. -/
theorem exec_checkFence {base : State} {r : Reply} (hch : ch ≠ 0) (hcaller : s.fenceCaller ch h base)
    (hn : s.nextRequest ch = some (.checkFence ch tag h (k.domain.setWidth 8) k.name serial))
    (hr : s.fenceReply ch tag k serial = r) :
    exec (.checkFence ch tag h (k.domain.setWidth 8) k.name serial) s = .next (base.answered ch r) := by
  subst hr
  have h0 : (ch : Nat) ≠ 0 := fun h => hch (Fin.ext h)
  have ha := nextRequest_active hn
  rw [exec, execCheckFence, takeRequest_next hn, State.checkFence, if_neg h0, keyOf_key]
  dsimp only
  rcases hcaller with ⟨rfl, rfl⟩ | ⟨i, o, hs, rfl⟩
  · rw [if_pos rfl, checkFenceChecked_eq, fenceReply_popRequest, popRequest_hand _ ha]
  · obtain ⟨-, -, hne, ho, -⟩ := id hs
    rw [if_neg hne, checkSession_popRequest, checkSession_opens hs (.inr rfl)]
    dsimp only
    rw [renew_opened (s := s.popRequest ch) ho, checkFenceChecked_eq]
    exact congrArg _ ((congrArg _ (fenceReply_begun ..)).trans (begun_hand _ ha))

theorem fenceReply_refused {n : Nat} (hno : (s.chan n).access.get k.domain.toNat = .none) :
    s.fenceReply n tag k serial = ⟨.checkFence, tag, .notPermitted, .header⟩ := if_pos hno

theorem fenceReply_served {n : Nat} {v : Verdict} {r : Reason} {x : Serial}
    (hacc : (s.chan n).access.get k.domain.toNat ≠ .none) (hv : s.fenceVerdict k serial = (v, r, x)) :
    s.fenceReply n tag k serial = ⟨.checkFence, tag, .ok, .fence v r x⟩ := by
  rw [State.fenceReply, if_neg hacc, hv]

end

/-- Settles O21: the answer is the refusal of the access level or the verdict, which the lookup, the state of the way and the X
holder of its entry decide. -/
theorem checkFenceVerdict : Obligations.CheckFenceVerdict := by
  intro s base ch tag h k serial hn hch hcaller answers
  have served {v : Verdict} {r : Reason} {x : Serial} (hacc : (s.chan ch).access.get k.domain.toNat ≠ .none)
      (hv : s.fenceVerdict k serial = (v, r, x)) : answers .ok (.fence v r x) :=
    exec_checkFence hch hcaller hn (fenceReply_served hacc hv)
  refine ⟨fun hno => exec_checkFence hch hcaller hn (fenceReply_refused hno),
    fun hacc => ⟨fun habs => ?_, fun w e hl => ⟨fun hw => ?_, fun hw => ?_⟩⟩⟩
  · exact served hacc (fenceVerdict_absent (lookup_none_of_absent habs))
  · exact served hacc (fenceVerdict_dormant hl hw)
  · refine ⟨fun hnone => ?_, fun c b hc hb hst hone => ?_⟩
    · exact served hacc (fenceVerdict_no_holder hl hw (exclusiveHolder_of_none hnone))
    · have hx : s.heldMode c = some .exclusive := by
        rw [heldMode_of_claimAt hb, hst]
        rfl
      have hverdict := fenceVerdict_holder (serial := serial) hl hw (exclusiveHolder_of_unique hc hx hone)
      rw [claimSerial_of_claimAt hb] at hverdict
      refine ⟨fun hsame => ?_, fun hdiffers => ?_⟩
      · exact served hacc (hverdict.trans (if_pos hsame))
      · exact served hacc (hverdict.trans (if_neg hdiffers))

end Sys2Proof.Machine
end

section
/-! PROOFS. The states of the channels in every step (R120): each move takes one channel at most to another state, as its command
may, and two changes that a command may make come to one that it may make. -/

namespace Sys2Proof.Machine

section
variable {s t : State} {ch : Nat} {x : Channel} {allow : Nat → ChanState → ChanState → Prop} {own : Nat → Prop}

theorem allowed_setChan (hstay : ∀ n a, allow n a a) (hx : allow ch (s.chan ch).state x.state) (n : Nat) :
    allow n (s.chan n).state ((s.setChan ch x).chan n).state := by
  rw [State.chan_setChan]
  split_ifs with hn
  exacts [hn ▸ hx, hstay ..]

theorem state_setChan (hx : x.state = (s.chan ch).state) (n : Nat) : ((s.setChan ch x).chan n).state = (s.chan n).state := by
  rw [State.chan_setChan]
  split_ifs with hn
  exacts [hn ▸ hx, rfl]

/-- A move leaves a channel in its state or takes it to one that its command may take it to. -/
theorem allowed_move (hstay : ∀ n a, allow n a a) (h : Move allow own s t) (n : Nat) :
    allow n (s.chan n).state (t.chan n).state := by
  have stays {u : State} (hu : (u.chan n).state = (s.chan n).state) : allow n (s.chan n).state (u.chan n).state :=
    hu ▸ hstay ..
  cases h
  case core h => exact stays ((coreMove_frame h).1 n)
  case fault ha hq | off ha _ hq | setUp ha hq | restart ha _ hq => exact allowed_setChan hstay (ha ▸ hq) n
  case badSetup hq | close hq | startManagement hq => exact allowed_setChan hstay hq n
  case pop | arm | fetch | discard | written | reqProd | rplCons | access | limits | entries =>
    exact stays (state_setChan (by rfl) n)
  case produced => exact stays ((state_setChan (by rfl) n).trans (state_setChan (by rfl) n))
  case teardownReply | registers | requestPeriod => exact hstay ..
  all_goals exact stays (by simp)

/-- A chain of moves of a command whose changes compose takes a channel where the command may take it. -/
theorem allowed_moves (hstay : ∀ n a, allow n a a) (htrans : ∀ n a b d, allow n a b → allow n b d → allow n a d)
    (h : Moves allow own s t) (n : Nat) : allow n (s.chan n).state (t.chan n).state := by
  induction h with
  | refl => exact hstay ..
  | tail _ h ih => exact htrans _ _ _ _ ih (allowed_move hstay h n)

end

/-- Two changes that a command may make one after the other come to none, or to one that it may make (R120). -/
theorem transition_trans {c : Instr} {n : Nat} {a b d : ChanState} (h : c.transition n a b = true)
    (h' : c.transition n b d = true) : a = d ∨ c.transition n a d = true := by
  cases c <;> simp only [Instr.transition, Bool.and_eq_true, Bool.or_eq_true, beq_iff_eq, Bool.false_eq_true] at h h' ⊢ <;> grind

/-- Settles O58: a tick changes no channel, a reset and the end of start-up make every channel OFF, and every other command is a
chain of moves that R120 lets it make. -/
theorem channelTransitions : Obligations.ChannelTransitions := by
  intro s t c rest hp h n
  have cleared (u : State) (b : Bool) : ((u.cleared b).chan n).state = .off := rfl
  rw [step, hp] at h
  by_cases ht : c = .tick
  · subst ht
    cases h
    refine .inl ?_
    split_ifs <;> rfl
  by_cases hr : c = .deviceReset
  · subst hr
    cases h
    exact .inr (by rw [cleared]; rfl)
  by_cases hu : c = .startupEnd
  · subst hu
    cases h
    split_ifs
    exacts [.inl rfl, .inr (by rw [cleared]; rfl)]
  · have hmoved := allowed_moves (fun _ _ => .inl rfl) (fun n a b d => ?_) (exec_moves h ht hr hu) n
    · exact hmoved.imp_left Eq.symm
    · rintro (rfl | h1) (rfl | h2)
      exacts [.inl rfl, .inr h2, .inr h1, transition_trans h1 h2]

end Sys2Proof.Machine
end

section
/-! PROOFS. The writes of the ring registers (R122, R134, R135, R146) and of MGMT_CONTROL (R153 to R155). -/

namespace Sys2Proof.Machine

section
variable {s t : State} {ch n : Nat} {x : Channel}

/-! ### Channel records -/

@[simp] theorem setChan_setChan (s : State) (ch : Nat) (x y : Channel) : (s.setChan ch x).setChan ch y = s.setChan ch y := by
  simp only [State.setChan, Table.set_set]

@[simp] theorem chan_setChan_self (s : State) (ch : Nat) (x : Channel) : (s.setChan ch x).chan ch = x := by
  rw [State.chan_setChan, if_pos rfl]

/-- Without DMA in flight no fetch is in flight and no write is (R119, R138). -/
theorem dmaBusy_eq_false : x.dmaBusy = false ↔ x.fetch = .idle ∧ x.writes = [] := by simp [Channel.dmaBusy]

/-! ### REQ_PROD (R122) -/

theorem indexWritten_eq (value : BitVec 32) : indexWritten value = value.toNat % 2 ^ 16 := by
  simp [indexWritten]

theorem exec_reqProdWrite {ch : Fin 16} {value : BitVec 32} (hready : s.ready = true) :
    exec (.reqProdWrite ch value) s = .next (s.writeReqProd ch (value.toNat % 2 ^ 16)) := by
  rw [exec, execReqProdWrite, if_pos hready, indexWritten_eq]

theorem writeReqProd_stored {index : Nat}
    (h : (s.chan ch).state = .active ∧ index < (s.chan ch).reqSize ∨ (s.chan ch).state = .faulted) :
    s.writeReqProd ch index = s.setChan ch { s.chan ch with reqProd := index } := by
  rw [State.writeReqProd]
  rcases h with ⟨ha, hin⟩ | hf
  · rw [ha]
    exact if_pos hin
  · rw [hf]

theorem writeReqProd_ignored {index : Nat} (h : (s.chan ch).state = .off ∨ (s.chan ch).state = .closing) :
    s.writeReqProd ch index = s := by
  rw [State.writeReqProd]
  rcases h with h | h <;> rw [h]

end

/-- Settles O38: REQ_PROD by the state of its channel. -/
theorem reqProdStored : Obligations.ReqProdStored := by
  intro s ch value hready
  rw [exec_reqProdWrite hready]
  exact ⟨fun h => congrArg _ (writeReqProd_stored h), fun h => congrArg _ (writeReqProd_ignored h)⟩

section
variable {s t : State} {ch n index : Nat} {x : Channel} {arm : Bool}

/-! ### RPL_CONS (R134) -/

/-- The channel with a consumer index stored. -/
def Channel.consumedTo (x : Channel) (index : Nat) : Channel := { x with rplCons := index }

@[simp] theorem Channel.consumedTo_notices (x : Channel) (index : Nat) : (x.consumedTo index).notices = x.notices := rfl


/-- The check of a consumer index, with the differences of R134 as remainders. -/
theorem consumerValid_iff : x.consumerValid index = true ↔ x.mayConsume index := by
  rw [Channel.consumerValid, Bool.and_eq_true, decide_eq_true_eq, decide_eq_true_eq, Channel.mayConsume]
  refine and_congr_right fun hin => ?_
  have hsize : 0 < x.rplSize := by omega
  rw [← ringDiff_eq hsize, ← ringDiff_eq hsize, Nat.cast_le]

theorem exec_rplConsWrite {ch : Fin 16} {value : BitVec 32} (hready : s.ready = true) :
    exec (.rplConsWrite ch value) s = .next (s.writeRplCons ch (value.toNat % 2 ^ 16) (value.getLsbD 31)) := by
  rw [exec, execRplConsWrite, if_pos hready, indexWritten_eq, armBit]

theorem writeRplCons_active (ha : (s.chan ch).state = .active) (hv : (s.chan ch).mayConsume index) :
    s.writeRplCons ch index arm = s.consume ch index arm := by
  rw [State.writeRplCons, ha]
  exact if_pos (consumerValid_iff.mpr hv)

theorem writeRplCons_faulted (hf : (s.chan ch).state = .faulted) :
    s.writeRplCons ch index arm = s.setChan ch ((s.chan ch).consumedTo index) := by
  rw [State.writeRplCons, hf]
  rfl

theorem writeRplCons_ignored (h : (s.chan ch).state = .off ∨ (s.chan ch).state = .closing) :
    s.writeRplCons ch index arm = s := by
  rw [State.writeRplCons]
  rcases h with h | h <;> rw [h]

/-! ### The pending notices that a consumer write lets out (R146) -/

/-- What `k` written notices leave of a channel: its consumer index, and `k` notices moved from its list to the writes in
flight. -/
structure Channel.NoticesOut (k : Nat) (x y : Channel) : Prop where
  rplCons : y.rplCons = x.rplCons
  notices : y.notices = x.notices.drop k
  writes : y.writes.length = x.writes.length + k

theorem Channel.NoticesOut.none (x : Channel) : x.NoticesOut 0 x := ⟨rfl, rfl, rfl⟩

theorem Channel.NoticesOut.trans {j k : Nat} {y z : Channel} (h : x.NoticesOut j y) (h' : y.NoticesOut k z) :
    x.NoticesOut (j + k) z where
  rplCons := h'.rplCons.trans h.rplCons
  notices := by rw [h'.notices, h.notices, List.drop_drop]
  writes := by rw [h'.writes, h.writes, Nat.add_assoc]

/-- The channel with notice `m` written, `rest` being the notices behind it. -/
def Channel.noticeOut (x : Channel) (m : Notice) (rest : List Notice) : Channel := { x.issue m.bytes with notices := rest }

theorem noticesOut_noticeOut {m : Notice} {rest : List Notice} (hx : x.notices = m :: rest) :
    x.NoticesOut 1 (x.noticeOut m rest) where
  rplCons := rfl
  notices := by rw [hx]; rfl
  writes := List.length_append

/-- A written notice takes one unreserved slot. -/
theorem unreserved_noticeOut (x : Channel) (m : Notice) (rest : List Notice) :
    (x.noticeOut m rest).unreserved = x.unreserved - 1 := by
  have hwritten : (x.noticeOut m rest).written = x.written + 1 :=
    congrArg (_ + ·) List.length_append
  rw [Channel.unreserved, hwritten, Nat.sub_add_eq, Nat.sub_right_comm]
  rfl

theorem noticeTurn_none (h : (s.chan ch).notices = [] ∨ (s.chan ch).unreserved = 0) : s.noticeTurn ch = none := by
  rw [State.noticeTurn]
  split
  · rename_i hn
    rcases h with h | h
    · rw [h] at hn
      cases hn
    · exact if_neg (by omega)
  · rfl

theorem noticeTurn_some {m : Notice} {rest : List Notice} (hn : (s.chan ch).notices = m :: rest)
    (hfree : 1 ≤ (s.chan ch).unreserved) :
    s.noticeTurn ch = some ((s.setChan ch ((s.chan ch).noticeOut m rest)).markLapse m false) := by
  rw [State.noticeTurn, hn]
  exact if_pos hfree

/-- As many notices are written as slots are free, and no other channel changes. -/
theorem noticeTurns_out (l : List Notice) (hl : (s.chan ch).notices = l) :
    (s.chan ch).NoticesOut (min l.length (s.chan ch).unreserved) ((repeatTurn (·.noticeTurn ch) l.length s).chan ch) ∧
      ∀ n, n ≠ ch → (repeatTurn (·.noticeTurn ch) l.length s).chan n = s.chan n := by
  induction l generalizing s with
  | nil => exact ⟨by simpa using .none _, fun _ _ => rfl⟩
  | cons m rest ih =>
    by_cases hfree : 1 ≤ (s.chan ch).unreserved
    · have hself : ((s.setChan ch ((s.chan ch).noticeOut m rest)).markLapse m false).chan ch =
          (s.chan ch).noticeOut m rest := by simp
      obtain ⟨hout, hother⟩ := ih (congrArg Channel.notices hself)
      rw [hself, unreserved_noticeOut] at hout
      rw [List.length_cons, repeatTurn, noticeTurn_some hl hfree]
      refine ⟨?_, fun n hn => (hother n hn).trans (by simp [hn])⟩
      rw [show min (rest.length + 1) (s.chan ch).unreserved = 1 + min rest.length ((s.chan ch).unreserved - 1) by omega]
      exact (noticesOut_noticeOut hl).trans hout
    · have hzero : (s.chan ch).unreserved = 0 := by omega
      rw [repeatTurn_none (turn := (·.noticeTurn ch)) (noticeTurn_none (.inr hzero)), hzero, Nat.min_zero]
      exact ⟨.none _, fun _ _ => rfl⟩

/-! ### The arming of a channel (R135) -/

/-- With nothing to consume the channel is armed. -/
theorem arm_setChan_waits (h : x.rplProd = x.rplCons) : (s.setChan ch x).arm ch = s.setChan ch { x with armed := true } := by
  rw [State.arm, chan_setChan_self, if_neg (not_not.mpr h), setChan_setChan]

theorem sendInterrupt_rings {r : Rings} (hr : (s.chan ch).rings = some r) :
    s.sendInterrupt ch = { s with interrupts := s.interrupts ++ [r.vector] } := by
  rw [State.sendInterrupt, hr]

/-- The interrupt of a channel with a configuration sent, and its armed flag cleared. -/
theorem sendInterrupt_disarm {r : Rings} (hr : (s.chan ch).rings = some r) : (s.sendInterrupt ch).disarm ch =
    { s.setChan ch { s.chan ch with armed := false } with interrupts := s.interrupts ++ [r.vector] } := by
  rw [sendInterrupt_rings hr]
  rfl

/-- With an entry produced and not consumed the interrupt is sent at once. -/
theorem arm_setChan_sends {r : Rings} (h : x.rplProd ≠ x.rplCons) (hr : x.rings = some r) : (s.setChan ch x).arm ch =
    { s.setChan ch { x with armed := false } with interrupts := s.interrupts ++ [r.vector] } := by
  rw [State.arm, chan_setChan_self, if_pos h, sendInterrupt_disarm (r := r) (by rw [chan_setChan_self, hr]),
    chan_setChan_self, setChan_setChan]
  rfl

/-- Arming leaves of the channel all but the armed flag, and every other channel as it was. -/
theorem chan_arm (s : State) (ch : Nat) :
    (∃ b, (s.arm ch).chan ch = { s.chan ch with armed := b }) ∧ ∀ n, n ≠ ch → (s.arm ch).chan n = s.chan n := by
  rw [State.arm]
  split_ifs
  · exact ⟨⟨false, by simp [State.disarm]⟩, fun n hn => by simp [State.disarm, hn]⟩
  · exact ⟨⟨true, by simp⟩, fun n hn => by simp [hn]⟩

theorem Channel.NoticesOut.armed {k : Nat} {y : Channel} (h : x.NoticesOut k y) (b : Bool) :
    x.NoticesOut k { y with armed := b } := ⟨h.rplCons, h.notices, h.writes⟩

/-- A consumer write stores the index, writes pending notices, and arms the channel (R134). -/
theorem consume_eq (s : State) (ch index : Nat) (arm : Bool) : s.consume ch index arm =
    let t := repeatTurn (·.noticeTurn ch) (s.chan ch).notices.length (s.setChan ch ((s.chan ch).consumedTo index))
    if arm then t.arm ch else t := by
  have hnotices : ((s.setChan ch ((s.chan ch).consumedTo index)).chan ch).notices = (s.chan ch).notices := by simp
  rw [← hnotices]
  rfl

/-- A consumer write on a channel that has no pending notice to write or no slot for one. -/
theorem consume_quiet (h : (s.chan ch).notices = [] ∨ ((s.chan ch).consumedTo index).unreserved = 0) :
    s.consume ch index arm = if arm then (s.setChan ch ((s.chan ch).consumedTo index)).arm ch
      else s.setChan ch ((s.chan ch).consumedTo index) := by
  have hturn : (s.setChan ch ((s.chan ch).consumedTo index)).noticeTurn ch = none :=
    noticeTurn_none (by simpa using h)
  rw [consume_eq, repeatTurn_none (turn := (·.noticeTurn ch)) hturn]

/-- What a consumer write leaves of the channels (R134, R146). -/
theorem consume_out (s : State) (ch index : Nat) (arm : Bool) :
    ((s.chan ch).consumedTo index).NoticesOut
      (min (s.chan ch).notices.length ((s.chan ch).consumedTo index).unreserved) ((s.consume ch index arm).chan ch) ∧
    ∀ n, n ≠ ch → (s.consume ch index arm).chan n = s.chan n := by
  have hself := chan_setChan_self s ch ((s.chan ch).consumedTo index)
  obtain ⟨hout, hother⟩ := noticeTurns_out (s := s.setChan ch ((s.chan ch).consumedTo index)) (ch := ch) _ rfl
  rw [hself, Channel.consumedTo_notices] at hout hother
  rw [consume_eq]
  generalize repeatTurn _ _ _ = t at hout hother ⊢
  obtain ⟨⟨b, harm⟩, harmOther⟩ := chan_arm t ch
  split_ifs
  · exact ⟨harm ▸ hout.armed b, fun n hn => by simp [harmOther n hn, hother n hn, hn]⟩
  · exact ⟨hout, fun n hn => by simp [hother n hn, hn]⟩

/-- A consumer write, not arming, on a channel with one pending notice and a slot for it. -/
theorem consume_notice {m : Notice} (hn : (s.chan ch).notices = [m])
    (hfree : 1 ≤ ((s.chan ch).consumedTo index).unreserved) : s.consume ch index false =
      (s.setChan ch (((s.chan ch).consumedTo index).noticeOut m [])).markLapse m false := by
  have hturn : (s.setChan ch ((s.chan ch).consumedTo index)).noticeTurn ch =
      some ((s.setChan ch (((s.chan ch).consumedTo index).noticeOut m [])).markLapse m false) := by
    rw [noticeTurn_some (by simpa using hn) (by simpa using hfree), chan_setChan_self, setChan_setChan]
  rw [consume_eq, if_neg Bool.false_ne_true, hn]
  exact repeatTurn_one hturn

end

/-- Settles O39: a consumer write by the state of its channel; on an ACTIVE one it is the turns of its pending notices and then
the arming. -/
theorem rplConsStored : Obligations.RplConsStored := by
  intro s ch value hready x index consumed
  rw [exec_rplConsWrite hready]
  refine ⟨fun ha hv => ?_, fun hf => congrArg _ (writeRplCons_faulted hf), fun h => congrArg _ (writeRplCons_ignored h)⟩
  rw [writeRplCons_active ha hv]
  refine ⟨?_, fun hquiet => ?_, fun i h reason tick withdrawn l hn hfree hl harm => ?_⟩
  · obtain ⟨⟨hcons, hnotices, hwrites⟩, hother⟩ := consume_out s ch index (value.getLsbD 31)
    exact ⟨_, rfl, hcons, hnotices, hwrites, fun n hn => hother n (Fin.val_ne_of_ne hn)⟩
  · rw [consume_quiet hquiet]
    refine ⟨fun harm => ?_, fun harm hsame => ?_, fun r harm hdiffers hr => ?_⟩
    · rw [harm]
      rfl
    · rw [harm, if_pos rfl]
      exact congrArg _ (arm_setChan_waits (x := consumed) hsame)
    · rw [harm, if_pos rfl]
      exact congrArg _ (arm_setChan_sends (x := consumed) hdiffers hr)
  · rw [harm, consume_notice hn hfree]
    exact congrArg _ (markLapse_lapsed (s := s.setChan ch (consumed.noticeOut _ [])) hl ..)

/-! ### MGMT_CONTROL (R153, R154, R155) -/

section
variable {s : State} {value : BitVec 32}

/-- Settings that an ENABLE or a RESTART accepts are valid ones (R153). -/
theorem accepted_eq (m : MgmtRegs) : m.accepted = m.rings.valid := by
  simp only [MgmtRegs.accepted, Rings.valid, MgmtRegs.rings, ringBaseValid, ringSizeValid_eq]
  rfl

theorem exec_mgmtControl {c : Instr} (hready : s.ready = true)
    (hc : c = .mgmtControlEnable value ∨ c = .mgmtControlRestart value) : exec c s = .next (s.writeMgmtControl value) := by
  rcases hc with rfl | rfl
  · rw [exec, execMgmtControlEnable, if_pos hready]
  · rw [exec, execMgmtControlRestart, if_pos hready]

/-- The writes of MGMT_CONTROL that act: ENABLE while channel 0 is OFF, and RESTART while it is FAULTED without DMA in flight
(R153, R155). -/
def State.mgmtControlActs (s : State) (value : BitVec 32) : Prop :=
  ((s.chan 0).state = .off ∧ value.getLsbD 0 = true) ∨
    ((s.chan 0).state = .faulted ∧ value.getLsbD 1 = true ∧ (s.chan 0).writes = [] ∧ (s.chan 0).fetch = .idle)

/-- A write that acts starts channel 0 or makes it FAULTED, by the settings of the registers alone. -/
theorem writeMgmtControl_acts (h : s.mgmtControlActs value) :
    s.writeMgmtControl value = if s.mgmt.rings.valid then s.startManagement else s.badSetup := by
  rw [State.writeMgmtControl]
  rcases h with ⟨hoff, hbit⟩ | ⟨hf, hbit, hwrites, hfetch⟩
  · rw [hoff]
    exact if_pos hbit
  · rw [hf]
    dsimp only
    rw [if_pos hbit, State.restartManagement, dmaBusy_eq_false.mpr ⟨hfetch, hwrites⟩]
    rfl

theorem writeMgmtControl_ignored (h : ¬s.mgmtControlActs value) : s.writeMgmtControl value = s := by
  rw [State.mgmtControlActs, not_or] at h
  obtain ⟨hoff, hfaulted⟩ := h
  rw [State.writeMgmtControl]
  split
  · exact if_neg fun hbit => hoff ⟨‹_›, hbit⟩
  · rename_i hf
    split_ifs with hbit
    · rw [State.restartManagement]
      refine if_pos (by_contra fun hbusy => hfaulted ?_)
      obtain ⟨hfetch, hwrites⟩ := dmaBusy_eq_false.mp (Bool.not_eq_true _ ▸ hbusy)
      exact ⟨hf, hbit, hwrites, hfetch⟩
    · rfl
  · rfl
  · rfl

/-- The interrupt of a BAD_SETUP goes to the vector in MGMT_VECTOR, if that is one (R154). -/
theorem setupInterrupt_eq (s : State) : s.setupInterrupt =
    { s with interrupts := s.interrupts ++ if s.mgmt.vector.toNat ≤ 15 then [s.mgmt.vector.toNat] else [] } := by
  have hle : s.mgmt.vector ≤ 15 ↔ s.mgmt.vector.toNat ≤ 15 := Iff.rfl
  rw [State.setupInterrupt]
  split_ifs with h h' h'
  · rfl
  · exact absurd (hle.mp h) h'
  · exact absurd (hle.mpr h') h
  · rw [List.append_nil]

end

/-- Settles O40: a write that acts does so by the settings of the registers, and any other is ignored. -/
theorem mgmtControlActs : Obligations.MgmtControlActs := by
  intro s c value hready hc x acts
  rw [exec_mgmtControl hready hc, accepted_eq]
  refine ⟨fun hacts hvalid => ?_, fun hacts hvalid => ?_, fun hidle => congrArg _ (writeMgmtControl_ignored hidle)⟩
  · rw [writeMgmtControl_acts hacts, if_pos hvalid]
    rfl
  · rw [writeMgmtControl_acts hacts, hvalid, if_neg Bool.false_ne_true, State.badSetup, setupInterrupt_eq]
    rfl

end Sys2Proof.Machine
end

section
/-! PROOFS. The DMA of the rings: the arbiter's grant (R124 to R126), completions taken on an ACTIVE channel (R127, R132), and
those that drain a stopped one (R128, R132, R139). -/

namespace Sys2Proof.Machine

section
variable {s : State} {n : Nat}

/-! ### FETCH_ISSUE (R125, R126) -/

theorem ready_iff {x : Channel} :
    x.ready = true ↔ x.state = .active ∧ x.fetch = .idle ∧ 1 ≤ x.pendingCount ∧ 1 ≤ x.unreserved := by
  simp [Channel.ready, and_assoc]

/-- The arbiter grants the ready channel that comes first after the last granted, around the sixteen. -/
theorem arbiterChoice_first (hn : n < 16) (hlast : s.lastGranted < 16) (hready : (s.chan n).ready = true)
    (hfirst : ∀ k < 16, (s.chan k).ready = true → (n + 15 - s.lastGranted) % 16 ≤ (k + 15 - s.lastGranted) % 16) :
    s.arbiterChoice = some n := by
  have hplace : (s.lastGranted + 1 + (n + 15 - s.lastGranted) % 16) % 16 = n := by omega
  have hfound : (List.range 16).find? (fun k => (s.chan ((s.lastGranted + 1 + k) % 16)).ready) =
      some ((n + 15 - s.lastGranted) % 16) := by
    refine find?_of_sorted List.pairwise_lt_range (List.mem_range.mpr (Nat.mod_lt _ (by decide))) (by rw [hplace, hready]) ?_
    intro k hk hlt
    have hk16 : k < 16 := List.mem_range.mp hk
    by_contra hr
    have hle := hfirst _ (Nat.mod_lt _ (by decide)) (by simpa using hr)
    omega
  unfold State.arbiterChoice State.arbiterOrder Config.channels
  rw [List.find?_map]
  exact (congrArg _ hfound).trans (congrArg some hplace)

theorem arbiterChoice_none (h : ∀ n < 16, ¬(s.chan n).ready = true) : s.arbiterChoice = none := by
  refine List.find?_eq_none.mpr fun n hn => h n ?_
  obtain ⟨k, -, rfl⟩ := List.mem_map.mp hn
  exact Nat.mod_lt _ (by decide)

theorem exec_fetchIssue_some (h : s.arbiterChoice = some n) : exec .fetchIssue s = .next (s.issueFetch n) := by
  rw [exec, execFetchIssue, h]

theorem exec_fetchIssue_none (h : s.arbiterChoice = none) : exec .fetchIssue s = .next s := by
  rw [exec, execFetchIssue, h]

end

/-- Settles O47: the arbiter's search from the channel after the last granted finds the first ready one, or none. -/
theorem fetchIssued : Obligations.FetchIssued := by
  intro s ready
  have hready (n : Nat) : (s.chan n).ready = true ↔ ready n := ready_iff
  refine ⟨fun n hn hlast hn' hfirst => ?_, fun hnone => ?_⟩
  · exact exec_fetchIssue_some (arbiterChoice_first hn hlast ((hready n).mpr hn') fun k hk hk' =>
      hfirst k hk ((hready k).mp hk'))
  · exact exec_fetchIssue_none (arbiterChoice_none fun n hn hn' => hnone n hn ((hready n).mp hn'))

section
variable {s : State} {ch : Fin 16} {w : DmaWrite} {rest : List DmaWrite}

/-! ### Completions on an ACTIVE channel (R127, R132) -/

theorem exec_fetchCompletion_active {start : Nat} {entries : List RingEntry} (ha : (s.chan ch).state = .active)
    (hf : (s.chan ch).fetch = .reading start entries.length) :
    exec (.fetchCompletion ch entries) s = .next (s.completeFetch ch entries.length entries) := by
  rw [exec, execFetchCompletion, hf]
  dsimp only
  rw [if_neg (not_not.mpr rfl), if_pos ha]

theorem exec_fetchCompletion_other {entries : List RingEntry}
    (hf : ∀ start, (s.chan ch).fetch ≠ .reading start entries.length) : exec (.fetchCompletion ch entries) s = .next s := by
  rw [exec, execFetchCompletion]
  split
  · rename_i start count hr
    refine congrArg _ (if_pos fun hcount => hf start ?_)
    rw [hr, hcount]
  · rfl
  · rfl

theorem popWrite_cons (hw : (s.chan ch).writes = w :: rest) :
    s.popWrite ch = s.setChan ch { s.chan ch with writes := rest } := by
  rw [State.popWrite, hw]
  rfl

/-- A write completion on an ACTIVE channel with a configuration (R132). -/
theorem completeWrite_eq {r : Rings} (hw : (s.chan ch).writes = w :: rest) (hr : (s.chan ch).rings = some r) :
    s.completeWrite ch =
      { s.setChan ch { s.chan ch with
          rplProd := ((s.chan ch).rplProd + 1) % (s.chan ch).rplSize, writes := rest, armed := false } with
        interrupts := s.interrupts ++ if (s.chan ch).armed then [r.vector] else [] } := by
  rw [State.completeWrite, popWrite_cons hw]
  dsimp only
  rw [chan_setChan_self, setChan_setChan, chan_setChan_self]
  dsimp only
  split_ifs with harm
  · rw [sendInterrupt_disarm (r := r) (by rw [chan_setChan_self]; exact hr), chan_setChan_self, setChan_setChan]
    rfl
  · have hoff : (s.chan ch).armed = false := by simpa using harm
    rw [List.append_nil, ← hoff]
    rfl

theorem exec_writeCompletion_active (ha : (s.chan ch).state = .active) (hw : (s.chan ch).writes = w :: rest) :
    exec (.writeCompletion ch) s = .next (s.completeWrite ch) := by
  rw [exec, execWriteCompletion, if_neg (by simp [hw]), if_pos ha]

end

/-- Settles O48: the completion of what is in flight on an ACTIVE channel, and of what is not. -/
theorem completionsTaken : Obligations.CompletionsTaken := by
  refine ⟨fun s ch entries => ⟨fun start ha hf => exec_fetchCompletion_active ha hf, exec_fetchCompletion_other⟩,
    fun s ch => ⟨fun w rest r ha hw hr => ?_, fun hw => ⟨?_, ?_⟩⟩⟩
  · rw [exec_writeCompletion_active ha hw]
    exact congrArg _ (completeWrite_eq hw hr)
  · rw [exec, execWriteCompletion, if_pos hw]
  · rw [exec, execWriteError, if_pos hw]

section
variable {s : State} {ch : Fin 16} {n : Nat} {w : DmaWrite} {rest : List DmaWrite} {start count : Nat}

/-! ### The drain of a stopped channel (R128, R132, R139) -/

theorem endTeardown_eq (s : State) (n : Nat) : s.endTeardown n = s.tornDown n := rfl

/-- A CLOSING channel without DMA in flight is torn down (R139). -/
theorem endTeardownIfDrained_eq (s : State) (n : Nat) : s.endTeardownIfDrained n =
    if (s.chan n).state = .closing ∧ (s.chan n).fetch = .idle ∧ (s.chan n).writes = [] then s.tornDown n else s := by
  exact if_congr (and_congr_right fun _ => dmaBusy_eq_false) rfl rfl

/-- The end of a teardown tested on a changed record. -/
def State.drained (s : State) (n : Nat) (y : Channel) : State :=
  if y.state = .closing ∧ y.fetch = .idle ∧ y.writes = [] then (s.setChan n y).tornDown n else s.setChan n y

theorem endTeardownIfDrained_setChan (s : State) (n : Nat) (y : Channel) :
    (s.setChan n y).endTeardownIfDrained n = s.drained n y := by
  rw [endTeardownIfDrained_eq, chan_setChan_self]
  rfl

/-- The end of a fetch is discarded on a channel that is not ACTIVE, with an error or without one (R128). -/
theorem exec_fetchEnd_stopped (ha : (s.chan ch).state ≠ .active) (hf : (s.chan ch).fetch = .reading start count) :
    exec (.fetchError ch) s = .next (s.drained ch { s.chan ch with fetch := .idle }) ∧
      ∀ entries, entries.length = count →
        exec (.fetchCompletion ch entries) s = .next (s.drained ch { s.chan ch with fetch := .idle }) := by
  rw [← endTeardownIfDrained_setChan]
  refine ⟨?_, fun entries hlength => ?_⟩
  · rw [exec, execFetchError, hf]
    exact congrArg _ (if_neg ha)
  · rw [exec, execFetchCompletion, hf]
    exact congrArg _ ((if_neg (not_not.mpr hlength)).trans (if_neg ha))

/-- The end of a write on a channel that is not ACTIVE lowers its writes in flight, with an error or without one (R132, R133). -/
theorem exec_writeEnd_stopped (ha : (s.chan ch).state ≠ .active) (hw : (s.chan ch).writes = w :: rest) :
    exec (.writeCompletion ch) s = .next (s.drained ch { s.chan ch with writes := rest }) ∧
      exec (.writeError ch) s = .next (s.drained ch { s.chan ch with writes := rest }) := by
  have hne : (s.chan ch).writes ≠ [] := by simp [hw]
  rw [← endTeardownIfDrained_setChan, ← popWrite_cons hw, exec, execWriteCompletion, exec, execWriteError, if_neg hne,
    if_neg ha, if_neg hne, if_neg ha]
  exact ⟨rfl, rfl⟩

end

/-- Settles O49: what ends on a stopped channel leaves its record, and the teardown of a CLOSING one ends with the last of it. -/
theorem stoppedChannelDrains : Obligations.StoppedChannelDrains := by
  intro s ch x drained
  have hdrained (y : Channel) (hy : y.state = x.state) : drained y = s.drained ch y := by
    rw [State.drained, hy]
  refine ⟨fun hstopped => ?_, fun hc hf hw => ?_, fun h => ?_⟩
  · have ha : (s.chan ch).state ≠ .active := by
      intro ha
      rcases hstopped with h | h <;> rw [ha] at h <;> cases h
    refine ⟨fun start count hf => ?_, fun w rest hw => ?_⟩
    · rw [hdrained { x with fetch := .idle } rfl]
      exact exec_fetchEnd_stopped ha hf
    · rw [hdrained { x with writes := rest } rfl]
      exact exec_writeEnd_stopped ha hw
  · rw [exec, execTeardownEnd, endTeardownIfDrained_eq, if_pos ⟨hc, hf, hw⟩]
  · rw [exec, execTeardownEnd, endTeardownIfDrained_eq, if_neg]
    rintro ⟨hc, hf, hw⟩
    exact h.elim (· hc) fun h => h.elim (· hf) (· hw)

end Sys2Proof.Machine
end

section
/-! PROOFS. SETUP_CHANNEL (R121, R157) and RESTART_CHANNEL (R138, R147, R149, R160). -/

namespace Sys2Proof.Machine

section
variable {s : State} {tag : ReqTag} {target : BitVec 8}

/-! ### SETUP_CHANNEL (R157) -/

theorem target_ne_zero (h : targetInRange target = true) : target.toNat ≠ 0 :=
  Nat.one_le_iff_ne_zero.mp (of_decide_eq_true h).1

/-- The range check of a SETUP_CHANNEL finds its target and its configuration (R156, R157). -/
theorem setup_of_inRange {vector : BitVec 8} {sl cl : BitVec 16} {rb pb : HostAddr} {rs ps : BitVec 16}
    (h : (Instr.setupChannel 0 tag target vector sl cl rb pb rs ps).inRange = true) :
    targetInRange target = true ∧
      setupRings vector sl cl rb pb rs ps = some ⟨rb, rs.toNat, pb, ps.toNat, vector.toNat⟩ := by
  rw [setupRings_eq]
  simp only [Instr.inRange, Bool.and_eq_true] at h ⊢
  obtain ⟨⟨⟨⟨⟨⟨⟨htarget, hvector⟩, hsl⟩, hcl⟩, hrb⟩, hpb⟩, hrs⟩, hps⟩ := h
  exact ⟨htarget, if_pos ⟨⟨⟨⟨⟨⟨hvector, hsl⟩, hcl⟩, hrb⟩, hpb⟩, hrs⟩, hps⟩⟩

theorem setupChannel_off {vector : BitVec 8} {sl cl : BitVec 16} {rb pb : HostAddr} {rs ps : BitVec 16} {r : Rings}
    (htarget : targetInRange target = true) (hr : setupRings vector sl cl rb pb rs ps = some r)
    (hoff : (s.chan target.toNat).state = .off) :
    s.setupChannel 0 tag target vector sl cl rb pb rs ps =
      (s.setChan target.toNat ((s.chan target.toNat).setUp r sl.toNat cl.toNat)).reply 0 .setupChannel tag .ok := by
  rw [State.setupChannel, if_neg (by decide), targetOf_eq, if_pos htarget, hr]
  dsimp only
  rw [hoff]

end

/-- Settles O29: the record of the target is written whole, and the request answered. -/
theorem setupChannelActivates : Obligations.SetupChannelActivates := by
  intro s tag target vector sl cl rb pb rs ps c hn hrange hoff
  obtain ⟨htarget, hr⟩ := setup_of_inRange hrange
  have h0 := target_ne_zero htarget
  have hchan : (s.popRequest 0).chan target.toNat = s.chan target.toNat := by rw [chan_popRequest, if_neg h0]
  rw [exec_request (ch := 0) rfl hn]
  refine congrArg _ ((setupChannel_off (s := s.popRequest 0) htarget hr (hchan ▸ hoff)).trans ?_)
  rw [hchan]
  exact popRequest_setChan_hand _ (nextRequest_active hn) h0

section
variable {s : State} {tag : ReqTag} {target : BitVec 8} {n c : Nat} {b : Claim} {o : OpenSession} {head : Nat} {queue : QueueKind}
  {held wanted : Mode}

/-! ### RESTART_CHANNEL (R160) -/

theorem exec_restartChannel (htarget : targetInRange target = true)
    (hn : s.nextRequest 0 = some (.restartChannel 0 tag target)) (hf : (s.chan target.toNat).state = .faulted)
    (hw : (s.chan target.toNat).writes = []) (hfetch : (s.chan target.toNat).fetch = .idle) :
    exec (.restartChannel 0 tag target) s =
      .next (((s.popRequest 0).restart target.toNat).hand 0 ⟨.restartChannel, tag, .ok, .header⟩) := by
  have hchan : (s.popRequest 0).chan target.toNat = s.chan target.toNat := by
    rw [chan_popRequest, if_neg (target_ne_zero htarget)]
  rw [exec_request (ch := 0) rfl hn, State.handled, State.restartChannel, if_neg (by decide), targetOf_eq, if_pos htarget]
  dsimp only
  rw [Fin.val_zero, hchan, hf, dmaBusy_eq_false.mpr ⟨hfetch, hw⟩]
  rfl

/-- A restarted channel before contention is raised again: its ring state anew, its CHANNEL_FAULTED notice dropped (R138,
R147). -/
def State.restarted (s : State) (n : Nat) : State := (s.setChan n (s.chan n).ringStart).dropNotices 0 (Notice.faultOf n)

theorem restart_eq (s : State) (n : Nat) :
    s.restart n = ((s.restarted n).claimsOf n).foldl State.retell (s.restarted n) := rfl

theorem foldl_retell_quiet {l : List Nat}
    (h : ∀ c ∈ l, ∀ b, s.claimAt c = some b → (s.entry b.way).blockingHead = none) : l.foldl State.retell s = s := by
  induction l with
  | nil => rfl
  | cons c l ih =>
    have hquiet : s.retell c = s := by
      rw [State.retell]
      split
      · rw [h c List.mem_cons_self _ ‹_›]
      · rfl
    rw [List.foldl_cons, hquiet]
    exact ih fun d hd => h d (List.mem_cons_of_mem _ hd)

/-- Two states that differ in their channels at most, and not in the record of any channel, are one. -/
theorem eq_of_chan {t : State} (hframe : t = { s with channels := t.channels }) (h : ∀ k, t.chan k = s.chan k) : t = s := by
  have hchannels : t.channels = s.channels := Table.ext_get h
  rw [hframe, hchannels]

theorem restarted_popRequest (h0 : n ≠ 0) : (s.popRequest 0).restarted n = (s.restarted n).popRequest 0 := by
  refine eq_of_chan rfl fun k => ?_
  have hself : (s.popRequest 0).chan n = s.chan n := by rw [chan_popRequest, if_neg h0]
  unfold State.restarted
  by_cases hk : k = 0
  · simp [hk, State.chan_dropNotices, hself, Ne.symm h0, Channel.popped]
  · simp [hk, State.chan_dropNotices, hself]

theorem state_restarted (h0 : n ≠ 0) : ((s.restarted n).chan 0).state = (s.chan 0).state := by
  rw [State.restarted, state_dropNotices, State.chan_setChan, if_neg (Ne.symm h0)]

theorem chan_restarted (h0 : n ≠ 0) : (s.restarted n).chan n = (s.chan n).ringStart := by
  rw [State.restarted, chan_dropNotices_other h0, chan_setChan_self]

/-- A restarted ring has all its slots but one free (R129, R138). -/
theorem unreserved_ringStart (x : Channel) : x.ringStart.unreserved = x.rplSize - 1 := by
  have hempty : x.ringStart.written = 0 := by simp [Channel.written, Channel.ringStart, ringDiff]
  rw [Channel.unreserved, hempty]
  rfl

/-- A claim that qualifies is told of the head (R41, R143). -/
theorem tell_raises {w : Nat} (hne : c ≠ head) (hb : s.claimAt c = some b) (hheld : b.state.heldMode = some held)
    (hwanted : s.wantedMode head = some wanted) (hcomp : held.compatible wanted = false) (hnot : b.noticed = false)
    (ho : (s.session b.session).state = .opened o) (hon : o.notices = true) (ha : (s.chan o.channel).state = .active) :
    s.tell w head queue c = (s.raise o.channel (.contention c (s.claimHandle c) (s.sessionHandle b.session)
      (s.entry w).key held wanted queue s.now)).setClaim c ⟨(s.claim c).tag, some { b with noticed := true }⟩ := by
  have hmode : s.heldMode c = some held := (heldMode_of_claimAt hb).trans hheld
  have htold : s.canBeTold b.session = true := by
    rw [State.canBeTold, ho]
    simp [hon, ha]
  rw [State.tell, hb, hmode, hwanted]
  dsimp only
  rw [if_pos ⟨hne, hcomp, hnot, htold⟩, claimChannel_opened hb ho]
  dsimp only
  rw [modClaim_some (b := b) _ (by simpa using hb), State.claim_raise]

/-- The one claim of a restarted channel that blocks a head, told at once on the empty ring. -/
theorem retell_restarted (h0 : n ≠ 0) (hb : s.claimAt c = some b) (hsize : 2 ≤ (s.chan n).rplSize)
    (ho : (s.session b.session).state = .opened o) (hch : o.channel = n) (hon : o.notices = true) (hnot : b.noticed = false)
    (hheld : b.state.heldMode = some held) (hhead : (s.entry b.way).blockingHead = some (head, queue)) (hne : head ≠ c)
    (hwanted : s.wantedMode head = some wanted) (hcomp : held.compatible wanted = false) :
    ((s.restarted n).popRequest 0).retell c =
      (((s.setChan n ((s.chan n).ringStart.issue (Notice.contention c (s.claimHandle c) (s.sessionHandle b.session)
          (s.entry b.way).key held wanted queue s.now).bytes)).setClaim c
        ⟨(s.claim c).tag, some { b with noticed := true }⟩).dropNotices 0 (Notice.faultOf n)).popRequest 0 := by
  have hself : ((s.restarted n).popRequest 0).chan n = (s.chan n).ringStart := by
    rw [chan_popRequest, if_neg h0, chan_restarted h0]
  have htold := tell_raises (s := (s.restarted n).popRequest 0) (w := b.way) (queue := queue) (Ne.symm hne) hb hheld hwanted
    hcomp hnot ho hon (by rw [hch, hself]; rfl)
  have hfree : 1 ≤ (((s.restarted n).popRequest 0).chan n).unreserved := by
    rw [hself, unreserved_ringStart]
    omega
  rw [hch, raise_written _ (by rw [hself]; rfl) (by rw [hself]; rfl) hfree, hself] at htold
  have hretell : ((s.restarted n).popRequest 0).retell c = ((s.restarted n).popRequest 0).tell b.way head queue c := by
    have hb' : ((s.restarted n).popRequest 0).claimAt c = some b := hb
    have hhead' : (((s.restarted n).popRequest 0).entry b.way).blockingHead = some (head, queue) := hhead
    rw [State.retell, hb']
    dsimp only
    rw [hhead']
  rw [hretell, htold]
  refine eq_of_chan rfl fun k => ?_
  by_cases hk : k = n
  · simp [hk, h0, State.chan_dropNotices]
    rfl
  · simp [hk, State.restarted, State.chan_dropNotices, Ne.symm h0]

end

/-- Settles O32: the restarted channel, and contention raised again by the one claim that blocks a head, if there is one. -/
theorem restartChannelRestarts : Obligations.RestartChannelRestarts := by
  intro s tag target htarget hn n x hf hw hfetch anew
  have h0 : n ≠ 0 := target_ne_zero htarget
  have hactive := nextRequest_active hn
  have hclaims : ((s.popRequest 0).restarted n).claimsOf n = s.claimsOf n := rfl
  rw [exec_restartChannel htarget hn hf hw hfetch, restart_eq, hclaims, restarted_popRequest h0]
  refine ⟨fun hquiet => ?_, fun c b o head queue held wanted hone hb hsize ho hch hon hnot hheld hhead hne hwanted hcomp => ?_⟩
  · rw [foldl_retell_quiet (s := (s.restarted n).popRequest 0) hquiet]
    exact congrArg _ (popRequest_hand _ ((state_restarted h0).trans hactive))
  · intro notice
    rw [hone, List.foldl_cons, List.foldl_nil,
      retell_restarted h0 hb hsize ho hch hon hnot hheld hhead hne hwanted hcomp]
    refine congrArg _ (popRequest_hand _ ?_)
    rw [state_dropNotices, State.chan_setClaim, State.chan_setChan, if_neg (Ne.symm h0)]
    exact hactive

end Sys2Proof.Machine
end

section
/-! PROOFS. What reads of the register window return (R119, R152, R172). -/

namespace Sys2Proof.Machine

section
variable {s : State} {n k offset : Nat}

/-! ### Status words (R119, R152) -/

/-- A bit vector above another as a number. -/
theorem toNat_append_eq {m l : Nat} (x : BitVec m) (y : BitVec l) : (x ++ y).toNat = x.toNat * 2 ^ l + y.toNat := by
  rw [BitVec.toNat_append, ← Nat.shiftLeft_add_eq_or_of_lt y.isLt, Nat.shiftLeft_eq]

theorem toNat_deviceStatus (s : State) : s.deviceStatus.toNat =
    s.ready.toNat + 2 * (s.chan 0).state.code.toNat + 16 * (s.chan 0).cause.code.toNat := by
  simp only [State.deviceStatus, toNat_append_eq, BitVec.toNat_ofBool, BitVec.toNat_ofNat]
  omega

/-- DMA_BUSY as a number (R119). -/
theorem dmaBusy_toNat (x : Channel) : x.dmaBusy.toNat = if x.fetch ≠ .idle ∨ x.writes ≠ [] then 1 else 0 := by
  split_ifs with h
  · have hbusy : x.dmaBusy = true := by
      rw [← Bool.not_eq_false, dmaBusy_eq_false]
      tauto
    rw [hbusy]
    rfl
  · have hidle : x.dmaBusy = false := dmaBusy_eq_false.mpr (by tauto)
    rw [hidle]
    rfl

theorem toNat_status (x : Channel) : x.status.toNat = x.state.code.toNat + 16 * x.cause.code.toNat +
    256 * (if x.fetch ≠ .idle ∨ x.writes ≠ [] then 1 else 0) := by
  rw [← dmaBusy_toNat]
  simp only [Channel.status, toNat_append_eq, BitVec.toNat_ofBool, BitVec.toNat_ofNat]
  omega

/-! ### Whole registers (R172) -/

/-- The two halves of a 64-bit register put together. -/
theorem halves_append (x : BitVec 64) : x.extractLsb' 32 32 ++ x.extractLsb' 0 32 = x :=
  x.extractLsb'_append_extractLsb'_eq_extractLsb' (by decide) |>.trans (by simp)

/-- A read in the page of channel `n`. -/
theorem read32_page (hn : n < 16) (hk : k < 0x100) : s.read32 (0x1000 + k + 0x100 * n) = (s.chan n).readPage k := by
  rw [State.read32, if_neg (by omega), if_pos (by omega), show (0x1000 + k + 0x100 * n - 0x1000) / 0x100 = n by omega,
    show (0x1000 + k + 0x100 * n) % 0x100 = k by omega]

theorem read32_unmapped (hdevice : offset ∉ [0x00, 0x04, 0x08, 0x0C, 0x10, 0x18, 0x1C, 0x20, 0x24])
    (hpages : ∀ n < 16, offset ∉ [0x1000 + 0x100 * n, 0x1004 + 0x100 * n, 0x1008 + 0x100 * n, 0x100C + 0x100 * n,
      0x1010 + 0x100 * n]) : s.read32 offset = 0 := by
  simp only [List.mem_cons, List.not_mem_nil, or_false, not_or] at hdevice hpages
  rw [State.read32]
  split_ifs with hlow hhigh
  · simp [State.readDevicePage, hdevice]
  · have hpage := hpages ((offset - 0x1000) / 0x100) (by omega)
    rw [Channel.readPage, if_neg (by omega), if_neg (by omega), if_neg (by omega), if_neg (by omega), if_neg (by omega)]
  · rfl

/-! ### Narrow reads (R172) -/

theorem toNat_read8 (s : State) (offset : Nat) :
    (s.read8 offset).toNat = (s.read32 (4 * (offset / 4))).toNat / 256 ^ (offset % 4) % 256 := by
  rw [State.read8, show offset - offset % 4 = 4 * (offset / 4) by omega, BitVec.extractLsb'_toNat, Nat.shiftRight_eq_div_pow,
    pow_mul, show (2 ^ 8 : Nat) = 256 from rfl]

theorem toNat_read16 (s : State) (heven : offset % 2 = 0) :
    (s.read16 offset).toNat = (s.read32 (4 * (offset / 4))).toNat / 256 ^ (offset % 4) % 256 ^ 2 := by
  rw [State.read16, toNat_append_eq, toNat_read8, toNat_read8, show (offset + 1) / 4 = offset / 4 by omega,
    show (offset + 1) % 4 = offset % 4 + 1 by omega, pow_succ, ← Nat.div_div_eq_div_mul, sq, Nat.mod_mul]
  omega

end

/-- Settles O42: each register of the window by its offset, and narrow reads by the bytes of their register. -/
theorem registerReads : Obligations.RegisterReads := by
  intro s
  refine ⟨toNat_deviceStatus s, rfl, halves_append _, rfl, halves_append _, rfl, rfl, fun n hn => ?_,
    fun offset _ hdevice hpages => read32_unmapped hdevice hpages, toNat_read8 s, fun offset heven => toNat_read16 s heven⟩
  refine ⟨read32_page (k := 0) hn (by decide), read32_page (k := 4) hn (by decide), read32_page (k := 8) hn (by decide),
    read32_page (k := 0xC) hn (by decide), ?_⟩
  rw [← toNat_status]
  exact congrArg _ (read32_page (k := 0x10) hn (by decide))

end Sys2Proof.Machine
end

section
/-! PROOFS. The entry of a channel into FAULTED (R122, R128, R133, R134, R136, R154). -/

namespace Sys2Proof.Machine

section
variable {s : State} {x : Channel} {c : Instr} {ch : Fin 16} {cause : Cause}

/-! ### The events (R120) -/

/-- The record of a channel that command `c` is about to fault: the failed fetch or write is in flight no more. -/
def Channel.beforeFault (x : Channel) : Instr → Channel
  | .fetchError _ => { x with fetch := .idle }
  | .writeError _ => { x with writes := x.writes.drop 1 }
  | _ => x

/-- An event that faults a channel takes the failed fetch or write off, and is then the entry into FAULTED. -/
theorem exec_faultEvent (ha : (s.chan ch).state = .active) (h : s.faultEvent c ch cause) :
    exec c s = .next ((s.setChan ch ((s.chan ch).beforeFault c)).fault ch cause) := by
  have hsame : s.setChan ch (s.chan ch) = s := eq_of_chan rfl fun k => by simp +contextual [State.chan_setChan]
  rcases h with ⟨value, rfl, hready, hsize, rfl⟩ | ⟨value, rfl, hready, hnot, rfl⟩ | ⟨rfl, ⟨start, count, hf⟩, rfl⟩ |
    ⟨rfl, hw, rfl⟩
  · rw [exec_reqProdWrite hready, State.writeReqProd, ha, Channel.beforeFault, hsame]
    · exact congrArg _ (if_neg (Nat.not_lt.mpr hsize))
    all_goals simp
  · rw [exec_rplConsWrite hready, State.writeRplCons, ha, Channel.beforeFault, hsame]
    · exact congrArg _ (if_neg fun hv => hnot (consumerValid_iff.mp hv))
    all_goals simp
  · rw [exec, execFetchError, hf]
    exact congrArg _ (if_pos ha)
  · rw [exec, execWriteError, if_neg hw, if_pos ha]
    rfl

/-- The record that an event leaves, when its interrupt has been dealt with. -/
theorem faultedBy_eq (h : s.faultEvent c ch cause) :
    { (x.beforeFault c).faulted cause with armed := false } = x.faultedBy c cause := by
  rcases h with ⟨value, rfl, -, -, rfl⟩ | ⟨value, rfl, -, -, rfl⟩ | ⟨rfl, -, rfl⟩ | ⟨rfl, -, rfl⟩
  all_goals
    unfold Channel.faultedBy Channel.faulted Channel.beforeFault
    cases x.fetch <;> simp [Fetch.atLeave]

theorem rings_beforeFault (x : Channel) (c : Instr) : (x.beforeFault c).rings = x.rings := by
  unfold Channel.beforeFault
  split <;> rfl

/-! ### Channel 0 (R154) -/

theorem faultManagement_eq {r : Rings} (hr : (s.chan 0).rings = some r) : s.faultManagement cause =
    { s.setChan 0 { (s.chan 0).faulted cause with armed := false } with
      teardownReplies := Table.empty, interrupts := s.interrupts ++ [r.vector] } := by
  have hself : { s.setChan 0 ((s.chan 0).faulted cause) with teardownReplies := Table.empty }.chan 0 =
      (s.chan 0).faulted cause := chan_setChan_self ..
  rw [State.faultManagement, sendInterrupt_disarm (r := r) (by rw [hself]; exact hr), hself]
  refine eq_of_chan rfl fun k => ?_
  by_cases hk : k = 0 <;> simp [State.setChan, hk]

end

/-- Settles O44: channel 0 does nothing of a fault but its record, the pending replies and the interrupt. -/
theorem managementChannelFaults : Obligations.ManagementChannelFaults := by
  intro s c cause r ha hr hevent
  have hself := chan_setChan_self s 0 ((s.chan 0).beforeFault c)
  have hrings : (((s.setChan 0 ((s.chan 0).beforeFault c)).chan 0)).rings = some r := by
    rw [hself, rings_beforeFault, hr]
  rw [exec_faultEvent (ch := 0) ha hevent, ← faultedBy_eq hevent, State.fault, Fin.val_zero, if_pos rfl,
    faultManagement_eq hrings, hself, setChan_setChan]
  rfl

end Sys2Proof.Machine
end

section
/-! PROOFS. The entry of a client channel into FAULTED (R136, R142): what its withdrawals leave of the interrupts and of the
claims. -/

namespace Sys2Proof.Machine

section
variable {s t u : State} {x : Channel} {ch w c : Nat}

/-! ### Withdrawals send no interrupt (R135, R136) -/

/-- From `s` to `t` no interrupt is sent and no armed flag changes. -/
structure Silent (s t : State) : Prop where
  interrupts : t.interrupts = s.interrupts
  armed : ∀ n, (t.chan n).armed = (s.chan n).armed

theorem Silent.refl (s : State) : Silent s s := ⟨rfl, fun _ => rfl⟩

theorem Silent.trans (h : Silent s t) (h' : Silent t u) : Silent s u :=
  ⟨h'.interrupts.trans h.interrupts, fun n => (h'.armed n).trans (h.armed n)⟩

/-- A change of nothing but claims, sessions and ways. -/
theorem Silent.of_chan (hi : t.interrupts = s.interrupts) (hc : ∀ n, t.chan n = s.chan n) : Silent s t :=
  ⟨hi, fun n => by rw [hc]⟩

theorem Silent.foldl {α : Type} {f : State → α → State} (hf : ∀ u a, Silent u (f u a)) (l : List α) (s : State) :
    Silent s (l.foldl f s) := by
  induction l generalizing s with
  | nil => exact .refl s
  | cons a l ih => exact (hf s a).trans (ih _)

theorem silent_setChan (h : x.armed = (s.chan ch).armed) : Silent s (s.setChan ch x) := by
  refine ⟨rfl, fun n => ?_⟩
  rw [State.chan_setChan]
  split_ifs with hn
  · rw [h, hn]
  · rfl

theorem silent_hand (s : State) (ch : Nat) (r : Reply) : Silent s (s.hand ch r) := by
  unfold State.hand
  split_ifs
  exacts [silent_setChan rfl, .refl s]

theorem silent_handClaim (s : State) (c : Nat) (r : Reply) : Silent s (s.handClaim c r) := by
  unfold State.handClaim
  split
  exacts [silent_hand .., .refl s]

theorem silent_markLapse (s : State) (n : Notice) (b : Bool) : Silent s (s.markLapse n b) := .of_chan (by simp) (by simp)

theorem silent_raise (s : State) (ch : Nat) (n : Notice) : Silent s (s.raise ch n) := by
  unfold State.raise
  dsimp only
  split_ifs
  · exact silent_setChan rfl
  · exact (silent_setChan (x := { s.chan ch with notices := (s.chan ch).notices ++ [n] }) rfl).trans (silent_markLapse ..)
  · exact .refl s

theorem silent_dropContention (s : State) (c : Nat) : Silent s (s.dropContention c) := by
  unfold State.dropContention
  split
  exacts [silent_setChan rfl, .refl s]

theorem silent_modClaim (s : State) (c : Nat) (f : Claim → Claim) : Silent s (s.modClaim c f) := .of_chan (by simp) (by simp)

theorem silent_modEntry (s : State) (w : Nat) (f : Entry → Entry) : Silent s (s.modEntry w f) := .of_chan (by simp) (by simp)

theorem silent_freeClaim (s : State) (c : Nat) : Silent s (s.freeClaim c) := by
  unfold State.freeClaim
  split
  · exact (silent_dropContention s c).trans (.of_chan (by simp) (by simp))
  · exact .refl s

theorem silent_endConversion (s : State) (c : Nat) : Silent s (s.endConversion c) := .of_chan (by simp) (by simp)

theorem silent_answer (s : State) (c : Nat) (st : Status) (full : Bool) : Silent s (s.answer c st full) := by
  unfold State.answer
  split
  · split
    exacts [silent_handClaim .., silent_handClaim .., .refl s]
  · exact .refl s

theorem silent_endWait (s : State) (c : Nat) (st : Status) : Silent s (s.endWait c st) := by
  unfold State.endWait
  split
  · split
    · exact (silent_answer ..).trans (silent_freeClaim ..)
    · exact (silent_answer ..).trans (silent_endConversion ..)
    · exact .refl s
  · exact .refl s

theorem silent_grant (s : State) (k : Kind) (tag : ReqTag) (c w : Nat) (m : Mode) : Silent s (s.grant k tag c w m) :=
  (Silent.of_chan (by simp) (by simp)).trans (silent_handClaim (s.hold c w m) ..)

theorem silent_turned (s : State) (w : Nat) : Silent s (s.turned w) := by
  refine turned_keeps (P := Silent s) (fun t u h ht => h.trans ?_) (fun t u h ht => h.trans ?_) (.refl s)
  · obtain ⟨c, -, -, -, -, -, -, -, -, rfl | rfl⟩ := convertTurn_cases ht
    · exact silent_endWait ..
    · exact (((silent_modClaim ..).trans (silent_dropContention ..)).trans (silent_modEntry ..)).trans (silent_grant ..)
  · obtain ⟨c, -, -, -, -, -, -, -, -, rfl | rfl⟩ := waitTurn_cases ht
    · exact silent_endWait ..
    · exact (silent_modEntry ..).trans (silent_grant ..)

theorem silent_tellHolders (s : State) (w : Nat) : Silent s (s.tellHolders w) := by
  unfold State.tellHolders
  split
  · refine Silent.foldl (fun u c => ?_) _ s
    rcases tell_cases u w _ _ c with h | ⟨ch, n, h⟩ <;> rw [h]
    · exact .refl u
    · exact (silent_raise ..).trans (silent_modClaim ..)
  · exact .refl s

theorem silent_settle (s : State) (w : Nat) : Silent s (s.settle w) := .of_chan (by simp) (by simp)

theorem silent_finish (s : State) (w : Nat) : Silent s (s.finish w) := by
  rw [finish_eq]
  exact ((silent_turned s w).trans (silent_tellHolders ..)).trans (silent_settle ..)

theorem silent_withdrawWait (s : State) (c : Nat) : Silent s (s.withdrawWait c) := by
  unfold State.withdrawWait
  split
  · split
    exacts [silent_freeClaim .., silent_endConversion .., .refl s]
  · exact .refl s

theorem silent_withdrawWaits (s : State) (lists : List (List Nat)) (claims : List Nat) :
    Silent s (s.withdrawAll lists claims State.withdrawWait) := by
  have hchoices : Silent s { s with choices := s.choices + (s.waysOf claims).length } := .of_chan rfl fun _ => rfl
  have hpart (u : State) (p : Nat × List Nat) : Silent u (u.withdrawPartOf State.withdrawWait p) :=
    (Silent.foldl silent_withdrawWait p.2 u).trans (silent_finish ..)
  exact hchoices.trans (Silent.foldl hpart _ _)

theorem silent_clearFlags (s : State) (ch : Nat) : Silent s (s.clearFlags ch) := by
  unfold State.clearFlags
  refine (Silent.foldl (fun u c => silent_modClaim ..) _ s).trans (Silent.foldl (fun u i => ?_) _ _)
  split
  exacts [.of_chan rfl fun _ => rfl, .refl u, .refl u]

end

section
variable {s t : State} {b : Claim} {ch c k w : Nat}

/-! ### A claim of a stopped channel (R41, R136) -/

/-- Claim `c` has the fields `b`, and its session is on the channel `ch`, which is not ACTIVE; the lists of claims are in order. -/
structure Stands (s : State) (c : Nat) (b : Claim) (ch : Nat) : Prop where
  leases : LeasesKept s
  claim : s.claimAt c = some b
  channel : (s.session b.session).channel = some ch
  stopped : (s.chan ch).state ≠ .active

theorem Stands.after (h : Stands s c b ch) (hcore : Core s t) (hc : t.claimAt c = s.claimAt c) : Stands t c b ch where
  leases := h.leases.after hcore
  claim := hc.trans h.claim
  channel := (core_channel hcore _).trans h.channel
  stopped := by
    rw [(core_frame hcore).1]
    exact h.stopped

/-- A turn takes the waiting claims of its way only. -/
theorem Stands.turn (h : Stands s c b ch) (hq : b.way = w → b.state.wait = none) (hcore : Core s t)
    (hk : (s.entry w).lists k) (ht : TurnAt s t w k) : Stands t c b ch := by
  refine h.after hcore (ht.claims c ?_)
  rintro rfl
  obtain ⟨b', hb', hw⟩ := h.leases.at_way hk
  obtain rfl := Option.some.inj (h.claim.symm.trans hb')
  have hwaits := ht.waits
  rw [State.isWaiting, hb', Option.bind_some, hq hw] at hwaits
  cases hwaits

/-- A session of a channel that is not ACTIVE cannot be told (R41). -/
theorem canBeTold_stopped {i : Nat} (hch : (s.session i).channel = some ch) (ha : (s.chan ch).state ≠ .active) :
    s.canBeTold i = false := by
  unfold State.canBeTold
  split
  · rename_i o ho
    rw [SessionRec.channel, ho] at hch
    cases hch
    simp [ha]
  · rfl
  · rfl

theorem Stands.tell (h : Stands s c b ch) (w head : Nat) (q : QueueKind) (k : Nat) : Stands (s.tell w head q k) c b ch := by
  by_cases hk : c = k
  · have hsame : s.tell w head q k = s := by
      rw [State.tell, ← hk, h.claim]
      split
      · rename_i hb _ _
        cases hb
        exact if_neg (by simp [canBeTold_stopped h.channel h.stopped])
      · rfl
    rwa [hsame]
  · exact h.after (core_tell ..) ((told_tell s w head q k).2 c hk)

theorem Stands.tellHolders (h : Stands s c b ch) (w : Nat) : Stands (s.tellHolders w) c b ch := by
  unfold State.tellHolders
  split
  · exact List.foldlRecOn (motive := fun u => Stands u c b ch) _ _ h fun _ hu k _ => hu.tell w _ _ k
  · exact h

/-- The end of an event at a way leaves a claim as it is that stands elsewhere or waits for nothing. -/
theorem Stands.finish (h : Stands s c b ch) (hq : b.way = w → b.state.wait = none) : Stands (s.finish w) c b ch := by
  have hturned : Stands (s.turned w) c b ch := by
    refine turned_keeps (P := fun u => Stands u c b ch) (fun t u h ht => ?_) (fun t u h ht => ?_) h
    · obtain ⟨k, rest, hk, hturn⟩ := TurnAt.convertTurn ht
      exact h.turn hq (core_convertTurn ht) (.inr (.inl (by simp [hk]))) hturn
    · obtain ⟨k, rest, -, hk, hturn⟩ := TurnAt.waitTurn ht
      exact h.turn hq (core_waitTurn ht) (.inr (.inr (by simp [hk]))) hturn
  rw [finish_eq]
  exact (hturned.tellHolders w).after (.single (.settled w)) (State.claimAt_settle ..)

theorem claimAt_withdrawWait_ne (hk : c ≠ k) : (s.withdrawWait k).claimAt c = s.claimAt c := by
  unfold State.withdrawWait
  split
  · split
    · rw [claimAt_freeClaim, if_neg hk]
    · exact claimAt_endConversion hk
    · rfl
  · rfl

theorem withdrawWait_held (hb : s.claimAt c = some b) (hw : b.state.wait = none) : s.withdrawWait c = s := by
  unfold State.withdrawWait
  rw [hb]
  dsimp only
  split
  · simp_all [ClaimState.wait]
  · simp_all [ClaimState.wait]
  · rfl

theorem withdrawWait_waiting {m : Mode} {wait : Wait} (hb : s.claimAt c = some b) (hst : b.state = .waiting m wait) :
    (s.withdrawWait c).claimAt c = none := by
  have hfree : s.withdrawWait c = s.freeClaim c := by
    rw [State.withdrawWait, hb]
    dsimp only
    rw [hst]
  rw [hfree, claimAt_freeClaim, if_pos rfl]

theorem withdrawWait_converting {x m : Mode} {wait : Wait} (hb : s.claimAt c = some b)
    (hst : b.state = .converting x m wait) : (s.withdrawWait c).claimAt c = some { b with state := .held x } := by
  have hended : s.withdrawWait c = s.endConversion c := by
    rw [State.withdrawWait, hb]
    dsimp only
    rw [hst]
  rw [hended, State.claimAt_endConversion, if_pos rfl, hb, Option.map_some, hst]
  rfl

/-- The withdrawal of a wait leaves every other claim, and a HELD one, as it is (R136). -/
theorem Stands.withdrawWait (h : Stands s c b ch) (hk : c = k → b.state.wait = none) : Stands (s.withdrawWait k) c b ch := by
  by_cases hck : c = k
  · rwa [← hck, withdrawWait_held h.claim (hk hck)]
  · exact h.after (core_withdrawWait ..) (claimAt_withdrawWait_ne hck)

/-! ### The withdrawals of a fault, in parts (R43, R136) -/

section
variable {Q : State → Prop} {l : List Nat}

/-- What the withdrawal of a wait reaches holds behind the withdrawals of its part. -/
theorem Stands.part_reaches (h : Stands s c b ch) (hc : c ∈ l) (hreach : ∀ u, Stands u c b ch → Q (u.withdrawWait c))
    (hkeep : ∀ u k, Q u → Q (u.withdrawWait k)) : Q (l.foldl State.withdrawWait s) := by
  induction l generalizing s with
  | nil => cases hc
  | cons k l ih =>
    by_cases hck : c = k
    · exact List.foldlRecOn l _ (hck ▸ hreach s h) fun u hu k _ => hkeep u k hu
    · exact ih (h.withdrawWait fun hk => absurd hk hck) ((List.mem_cons.mp hc).resolve_left hck)

theorem Stands.part_keeps (h : Stands s c b ch) (hc : c ∉ l) : Stands (l.foldl State.withdrawWait s) c b ch :=
  List.foldlRecOn (motive := fun u => Stands u c b ch) l _ h fun _ hu _ hk => hu.withdrawWait fun hck => absurd (hck ▸ hk) hc

/-- Of the parts of a fault only the one at the claim's way has the claim. -/
theorem Stands.parts_reach {parts : List (Nat × List Nat)} (h : Stands s c b ch)
    (hreach : ∀ u, Stands u c b ch → Q (u.withdrawWait c)) (hkeep : ∀ u k, Q u → Q (u.withdrawWait k))
    (hfinish : ∀ u w, Q u → Q (u.finish w)) (hmem : ∀ p ∈ parts, c ∈ p.2 ↔ p.1 = b.way) (hw : ∃ p ∈ parts, p.1 = b.way) :
    Q (parts.foldl (State.withdrawPartOf State.withdrawWait) s) := by
  have hpart (u : State) (p : Nat × List Nat) (hu : Q u) : Q (u.withdrawPartOf State.withdrawWait p) :=
    hfinish _ _ (List.foldlRecOn p.2 _ hu fun u hu k _ => hkeep u k hu)
  induction parts generalizing s with
  | nil => simp at hw
  | cons p parts ih =>
    have hp := hmem p List.mem_cons_self
    by_cases hpw : p.1 = b.way
    · exact List.foldlRecOn parts _ (hfinish _ _ (h.part_reaches (hp.mpr hpw) hreach hkeep)) fun u hu q _ => hpart u q hu
    · refine ih ((h.part_keeps (hp.not.mpr hpw)).finish fun hbw => absurd hbw.symm hpw)
        (fun q hq => hmem q (List.mem_cons_of_mem p hq)) ?_
      obtain ⟨q, hq, hqw⟩ := hw
      rcases List.mem_cons.mp hq with rfl | hq
      exacts [absurd hqw hpw, ⟨q, hq, hqw⟩]

/-- What the withdrawal of a wait reaches, and the rest of the fault keeps, holds behind the withdrawals of the fault. -/
theorem Stands.withdrawWaits_reach {lists : List (List Nat)} (h : Stands s c b ch) (hc : c ∈ l)
    (hreach : ∀ u, Stands u c b ch → Q (u.withdrawWait c)) (hkeep : ∀ u k, Q u → Q (u.withdrawWait k))
    (hfinish : ∀ u w, Q u → Q (u.finish w)) : Q (s.withdrawAll lists l State.withdrawWait) := by
  have hfilter (w : Nat) : c ∈ (l.filter fun k => (s.claimAt k).map (·.way) == some w) ↔ w = b.way := by
    rw [List.mem_filter, h.claim, Option.map_some, beq_iff_eq, Option.some_inj, and_iff_right hc]
    exact eq_comm
  have hchoices : Stands { s with choices := s.choices + (s.waysOf l).length } c b ch :=
    h.after (.single (.choose _)) rfl
  refine hchoices.parts_reach hreach hkeep hfinish (fun p hp => ?_) ?_
  · obtain ⟨w, -, rfl⟩ := List.mem_map.mp hp
    exact hfilter w
  · exact ⟨_, List.mem_map.mpr ⟨b.way, (partOrder_perm _ _).mem_iff.mpr (mem_waysOf hc h.claim), rfl⟩, rfl⟩

/-- A WAITING claim among the withdrawn is freed, and no claim comes back (R136). -/
theorem Stands.waits_freed {lists : List (List Nat)} {m : Mode} {wait : Wait} (h : Stands s c b ch) (hc : c ∈ l)
    (hst : b.state = .waiting m wait) : (s.withdrawAll lists l State.withdrawWait).claimAt c = none :=
  h.withdrawWaits_reach (Q := fun u => u.claimAt c = none) hc (fun _ hu => withdrawWait_waiting hu.claim hst)
    (fun _ k => core_none (core_withdrawWait _ k) c) (fun _ w => core_none (core_finish _ w) c)

/-- A CONVERTING claim among the withdrawn goes back to HELD at its old mode, and no turn or head reaches it then (R136). -/
theorem Stands.converts_held {lists : List (List Nat)} {x m : Mode} {wait : Wait} (h : Stands s c b ch) (hc : c ∈ l)
    (hst : b.state = .converting x m wait) :
    (s.withdrawAll lists l State.withdrawWait).claimAt c = some { b with state := .held x } := by
  have hleft : Stands (s.withdrawAll lists l State.withdrawWait) c { b with state := .held x } ch := by
    refine h.withdrawWaits_reach (Q := fun u => Stands u c { b with state := .held x } ch) hc (fun u hu => ?_)
      (fun _ _ hu => hu.withdrawWait fun _ => rfl) (fun _ _ hu => hu.finish fun _ => rfl)
    have hcore := core_withdrawWait u c
    exact ⟨hu.leases.after hcore, withdrawWait_converting hu.claim hst, (core_channel hcore _).trans hu.channel,
      by rw [(core_frame hcore).1]; exact hu.stopped⟩
  exact hleft.claim

end

end

section
variable {s : State} {b : Claim} {o : OpenSession} {ch c n : Nat} {cause : Cause} {r : Rings}

/-! ### The flags that a fault clears (R136, R148) -/

/-- A claim that has been told of nothing. -/
def Claim.untold (b : Claim) : Claim := { b with noticed := false }

theorem claimAt_untold (l : List Nat) (hc : c ∈ l) (hb : s.claimAt c = some b) :
    (l.foldl (fun u k => u.modClaim k Claim.untold) s).claimAt c = some b.untold := by
  have hkeep (u : State) (k : Nat) (hu : u.claimAt c = some b.untold) :
      (u.modClaim k Claim.untold).claimAt c = some b.untold := by
    rw [State.claimAt_modClaim]
    split_ifs with hk
    · rw [← hk, hu]
      rfl
    · exact hu
  induction l generalizing s with
  | nil => cases hc
  | cons k l ih =>
    by_cases hk : c = k
    · refine List.foldlRecOn (motive := fun u => u.claimAt c = some b.untold) l _ ?_ fun u hu k _ => hkeep u k hu
      rw [State.claimAt_modClaim, if_pos hk, ← hk, hb]
      rfl
    · refine ih ((List.mem_cons.mp hc).resolve_left hk) ?_
      rw [State.claimAt_modClaim, if_neg hk, hb]

theorem claimAt_clearFlags (hc : c ∈ s.claimsOf ch) (hb : s.claimAt c = some b) :
    (s.clearFlags ch).claimAt c = some b.untold := by
  refine List.foldlRecOn (motive := fun u : State => u.claimAt c = some b.untold) _ _ (claimAt_untold _ hc hb) fun u hu i _ => ?_
  split <;> exact hu

theorem session_clearFlags_opened {i : Nat} (ho : (s.session i).state = .opened o) :
    (s.clearFlags ch).session i = s.session i := by
  refine List.foldlRecOn (motive := fun u : State => u.session i = s.session i) _ _ ?_ fun u hu j _ => ?_
  · exact List.foldlRecOn (motive := fun u : State => u.session i = s.session i) _ _ rfl fun u hu j _ => by simpa using hu
  · split
    · rename_i l hl
      rw [State.session_setSession, if_neg, hu]
      rintro rfl
      rw [hu, ho] at hl
      cases hl
    · exact hu
    · exact hu

/-! ### A fault, said of the state before it (R136) -/

/-- A claim in the list of an OPEN session of the channel that faults, before its wait is withdrawn. -/
theorem stands_unflagged (hs : LeasesKept s) (hb : s.claimAt c = some b) (ho : (s.session b.session).state = .opened o)
    (hch : o.channel = ch) (hc : c ∈ o.claims) :
    Stands (s.unflagged ch cause) c b.untold ch ∧ c ∈ (s.unflagged ch cause).claimsOf ch := by
  have hchannel : (s.session b.session).channel = some ch := hch ▸ channel_of_opened ho
  have hmem : c ∈ (s.session b.session).claims := SessionRec.claims_of_opened ho ▸ hc
  have hcore := core_clearFlags (s.setChan ch ((s.chan ch).faulted cause)) ch
  have hsession : (s.unflagged ch cause).session b.session = s.session b.session :=
    session_clearFlags_opened (s := s.setChan ch ((s.chan ch).faulted cause)) ho
  refine ⟨⟨?_, ?_, ?_, ?_⟩, ?_⟩
  · have hfaulted : LeasesKept (s.setChan ch ((s.chan ch).faulted cause)) :=
      hs.shrink (.of_eq hs (fun _ => rfl) fun _ => rfl)
    exact hfaulted.after hcore
  · exact claimAt_clearFlags (s := s.setChan ch _) (mem_claimsOf.mpr ⟨b.session, hchannel, hmem⟩) hb
  · rw [Claim.untold, hsession, hchannel]
  · rw [State.unflagged, (core_frame hcore).1, chan_setChan_self]
    simp [Channel.faulted]
  · exact mem_claimsOf.mpr ⟨b.session, hsession ▸ hchannel, hsession ▸ hmem⟩

theorem claimAt_faultClient (s : State) (ch c : Nat) (cause : Cause) :
    (s.faultClient ch cause).claimAt c = (s.unwaiting ch cause).claimAt c := by
  rw [faultClient_eq]
  split_ifs <;> simp [State.faultTold]

theorem faultClient_waiting {m : Mode} {wait : Wait} (hs : LeasesKept s) (hb : s.claimAt c = some b)
    (ho : (s.session b.session).state = .opened o) (hch : o.channel = ch) (hc : c ∈ o.claims)
    (hst : b.state = .waiting m wait) : (s.faultClient ch cause).claimAt c = none := by
  obtain ⟨hstands, hmem⟩ := stands_unflagged (cause := cause) hs hb ho hch hc
  rw [claimAt_faultClient]
  refine hstands.waits_freed (List.mem_filter.mpr ⟨hmem, ?_⟩) hst
  simp [State.isWaiting, hstands.claim, Claim.untold, hst, ClaimState.wait]

theorem faultClient_converting {x m : Mode} {wait : Wait} (hs : LeasesKept s) (hb : s.claimAt c = some b)
    (ho : (s.session b.session).state = .opened o) (hch : o.channel = ch) (hc : c ∈ o.claims)
    (hst : b.state = .converting x m wait) :
    (s.faultClient ch cause).claimAt c = some { b with state := .held x, noticed := false } := by
  obtain ⟨hstands, hmem⟩ := stands_unflagged (cause := cause) hs hb ho hch hc
  rw [claimAt_faultClient]
  refine hstands.converts_held (List.mem_filter.mpr ⟨hmem, ?_⟩) hst
  simp [State.isWaiting, hstands.claim, Claim.untold, hst, ClaimState.wait]

/-- Until its interrupt the fault sends none and leaves the armed flag. -/
theorem silent_faultTold (s : State) (ch : Nat) (cause : Cause) :
    Silent (s.setChan ch ((s.chan ch).faulted cause)) (s.faultTold ch cause) :=
  ((silent_clearFlags ..).trans (silent_withdrawWaits ..)).trans (silent_raise ..)

theorem armed_faultTold (s : State) (ch : Nat) (cause : Cause) :
    ((s.faultTold ch cause).chan ch).armed = (s.chan ch).armed := by
  rw [(silent_faultTold s ch cause).armed, chan_setChan_self]
  rfl

/-- The faulted channel's record: the withdrawals touch nothing of it. -/
theorem chan_faultClient (s : State) (ch : Nat) (cause : Cause) :
    (s.faultClient ch cause).chan ch = { (s.chan ch).faulted cause with armed := false } := by
  have hserves := serves_core (core_faultClient s ch cause) ch
  have harmed : ((s.faultClient ch cause).chan ch).armed = false := by
    rw [faultClient_eq]
    split_ifs with h
    · simp [State.disarm]
    · simpa using h
  rw [chan_setChan_self] at hserves
  obtain ⟨hwrites, hphase, howed, hnotices⟩ := hserves.quiet (by simp [Channel.faulted])
  rw [hserves.same, hwrites, hphase, howed, harmed, List.sublist_nil.mp hnotices]
  rfl

theorem interrupts_faultClient (hr : (s.chan ch).rings = some r) (cause : Cause) :
    (s.faultClient ch cause).interrupts = s.interrupts ++ if (s.chan ch).armed then [r.vector] else [] := by
  have hrings : ((s.faultTold ch cause).chan ch).rings = some r := by
    have hcore := (core_clearFlags (s.setChan ch ((s.chan ch).faulted cause)) ch).trans (core_faultTold s ch cause)
    rw [(serves_core hcore ch).same, chan_setChan_self]
    exact hr
  have hinterrupts : (s.faultTold ch cause).interrupts = s.interrupts := (silent_faultTold s ch cause).interrupts
  rw [faultClient_eq, ← armed_faultTold s ch cause]
  split_ifs
  · rw [sendInterrupt_disarm hrings, hinterrupts]
  · rw [hinterrupts, List.append_nil]

/-! ### A fault of a channel without sessions (R142) -/

theorem claimsOf_of_no_sessions (h : s.sessionsOf ch = []) : s.claimsOf ch = [] := by
  rw [State.claimsOf, h]
  rfl

/-- With no session there is no flag to clear and no wait to withdraw. -/
theorem chan_unwaiting_of_no_sessions (h : s.sessionsOf ch = []) (cause : Cause) (n : Nat) :
    (s.unwaiting ch cause).chan n = (s.setChan ch ((s.chan ch).faulted cause)).chan n := by
  have hsessions : (s.setChan ch ((s.chan ch).faulted cause)).sessionsOf ch = [] := h
  have hflags : s.unflagged ch cause = s.setChan ch ((s.chan ch).faulted cause) := by
    rw [State.unflagged, State.clearFlags, hsessions, claimsOf_of_no_sessions hsessions]
    rfl
  rw [State.unwaiting, hflags, State.waitsOf, claimsOf_of_no_sessions hsessions]
  rfl

/-- Such a fault does to channel 0 what the raising of its notice does. -/
theorem chan_zero_faultClient (h0 : ch ≠ 0) (h : s.sessionsOf ch = []) (cause : Cause) :
    ∃ t : State, (s.faultClient ch cause).chan 0 = (t.raise 0 (.channelFaulted ch cause s.now)).chan 0 ∧ t.chan 0 = s.chan 0 := by
  refine ⟨s.unwaiting ch cause, ?_, ?_⟩
  · rw [faultClient_eq]
    split_ifs
    · rw [State.disarm, State.chan_setChan, if_neg (Ne.symm h0), State.chan_sendInterrupt]
      rfl
    · rfl
  · rw [chan_unwaiting_of_no_sessions h, State.chan_setChan, if_neg (Ne.symm h0)]

end

section
variable {s : State} {c : Instr} {ch : Fin 16} {cause : Cause}

/-! ### The events (R120) -/

/-- An event that faults a client channel, in terms of the state in which nothing failed is in flight any more. -/
theorem exec_faultEvent_client (h0 : ch ≠ 0) (ha : (s.chan ch).state = .active) (h : s.faultEvent c ch cause) :
    exec c s = .next ((s.setChan ch ((s.chan ch).beforeFault c)).faultClient ch cause) := by
  have h0' : (ch : Nat) ≠ 0 := Fin.val_ne_of_ne h0
  rw [exec_faultEvent ha h, State.fault, if_neg h0']

theorem chan_faultEvent (h : s.faultEvent c ch cause) :
    ((s.setChan ch ((s.chan ch).beforeFault c)).faultClient ch cause).chan ch = (s.chan ch).faultedBy c cause := by
  rw [chan_faultClient, chan_setChan_self, faultedBy_eq h]

theorem armed_beforeFault (x : Channel) (c : Instr) : (x.beforeFault c).armed = x.armed := by
  unfold Channel.beforeFault
  split <;> rfl

theorem faultedTo_faultEvent (h : s.faultEvent c ch cause) (hs : LeasesKept s) :
    s.faultedTo ((s.setChan ch ((s.chan ch).beforeFault c)).faultClient ch cause) ch c cause := by
  have hrecord := chan_faultEvent h
  have hself := chan_setChan_self s ch ((s.chan ch).beforeFault c)
  have hleases : LeasesKept (s.setChan ch ((s.chan ch).beforeFault c)) :=
    hs.shrink (.of_eq hs (fun _ => rfl) fun _ => rfl)
  have hcore := core_faultClient (s.setChan ch ((s.chan ch).beforeFault c)) ch cause
  obtain ⟨hstates, htime⟩ := core_frame hcore
  exact
    { record := hrecord
      waiting := fun k b m w hb ⟨o, ho, hch, hk⟩ hst => faultClient_waiting hleases hb ho hch hk hst
      converting := fun k b x m w hb ⟨o, ho, hch, hk⟩ hst => faultClient_converting hleases hb ho hch hk hst
      none_new := fun k hk => core_none hcore k hk
      sessions := fun i => core_untouched hcore i
      interrupts := fun r hr => by
        rw [interrupts_faultClient (r := r) (by rw [hself, rings_beforeFault, hr]), hself, armed_beforeFault]
        rfl
      states := fun n hn => by rw [hstates, State.chan_setChan, if_neg hn, State.chan_setChan, if_neg hn]
      time := htime }

end

/-- Settles O43: a fault is the change of the record, the withdrawals and the notice, none of which undoes another. -/
theorem clientChannelFaults : Obligations.ClientChannelFaults := by
  refine ⟨fun s c ch cause h0 ha hevent hs => ?_, fun s c ch cause h0 ha hevent hnone => ?_⟩
  · exact ⟨_, exec_faultEvent_client h0 ha hevent, faultedTo_faultEvent hevent hs⟩
  · refine ⟨_, exec_faultEvent_client h0 ha hevent, chan_faultEvent hevent, ?_⟩
    have h0' : (ch : Nat) ≠ 0 := Fin.val_ne_of_ne h0
    obtain ⟨t, hraise, ht⟩ :=
      chan_zero_faultClient (s := s.setChan ch ((s.chan ch).beforeFault c)) (cause := cause) h0' hnone
    rw [State.chan_setChan, if_neg (Ne.symm h0')] at ht
    rw [hraise, ← ht]
    refine ⟨fun hact hempty hfree => ?_, fun hact hkept => ?_, fun hstopped => ?_⟩
    · rw [raise_written _ hact hempty hfree, chan_setChan_self]
      rfl
    · rw [raise_kept _ hact hkept, State.chan_markLapse, chan_setChan_self]
      rfl
    · rw [raise_stopped _ hstopped]

end Sys2Proof.Machine
end

section
/-! PROOFS. Ring entries: requests read back (R168, R169), and the bytes of replies and notices (R170, R171). -/

namespace Sys2Proof.Machine

section
variable {ch : Fin 16} {i : Instr} {e : RingEntry}

/-! ### Requests (R169) -/

@[simp] theorem getElem_flagBit (b : Bool) : (flagBit b)[0] = b := by cases b <;> rfl

@[simp] theorem getElem_valueFlags_zero (present invalidate : Bool) : (valueFlags present invalidate)[0] = present := by
  cases present <;> cases invalidate <;> rfl

@[simp] theorem getElem_valueFlags_one (present invalidate : Bool) : (valueFlags present invalidate)[1] = invalidate := by
  cases present <;> cases invalidate <;> rfl

theorem requestKindCode_iff {k : BitVec 16} :
    requestKindCode k = true ↔ 1 ≤ k.toNat ∧ k.toNat ≤ 8 ∨ 32 ≤ k.toNat ∧ k.toNat ≤ 42 := by
  simp [requestKindCode, BitVec.le_def]

/-- A kind code that names no request kind is none of those that the layouts are given for (R168). -/
theorem decodeEntry_unknown (hk : requestKindCode (bytesAt e 0 16) = false) :
    decodeEntry ch e = .unknownKindRequest ch (bytesAt e 2 16) (bytesAt e 0 16) := by
  have hout : ¬(1 ≤ (bytesAt e 0 16).toNat ∧ (bytesAt e 0 16).toNat ≤ 8 ∨
      32 ≤ (bytesAt e 0 16).toNat ∧ (bytesAt e 0 16).toNat ≤ 42) := by
    rw [← requestKindCode_iff, hk]
    exact Bool.false_ne_true
  unfold decodeEntry
  dsimp only
  split
  case h_20 => rfl
  all_goals omega

/-- The fields of an entry lie apart, so each is read as it was put. -/
theorem decode_encode (hch : i.requestChannel = some ch) (hw : i.wellFormed = true)
    (he : encodeEntry i = some e) : decodeEntry ch e = i := by
  cases i
  case unknownKindRequest ch' tag kind =>
    cases hch
    cases he
    have hkind : bytesAt (entryHeader kind tag) 0 16 = kind := by
      simp [entryHeader, bytesAt_or, bytesAt_putAt, bytesAt_putAt_disjoint]
    have htag : bytesAt (entryHeader kind tag) 2 16 = tag := by
      simp [entryHeader, bytesAt_or, bytesAt_putAt, bytesAt_putAt_disjoint]
    rw [decodeEntry_unknown (by simpa [hkind, Instr.wellFormed] using hw), hkind, htag]
  -- What is no request has no channel; of every other kind the layout is read field by field.
  all_goals
    cases hch <;> cases he <;>
      simp [decodeEntry, entryHeader, bytesAt_or, bytesAt_putAt, bytesAt_putAt_disjoint, bitAt_or, bitAt_putAt,
        bitAt_putAt_disjoint]

end

/-! ### Entries put together from fields (R170, R171) -/

section
variable {f g : ByteField} {l l' : List ByteField} {n : Nat}

/-- An entry that holds one field and zero elsewhere. -/
def ByteField.entry (f : ByteField) : RingEntry := putAt f.start (BitVec.ofNat (8 * f.length) f.value)

/-- The entry put together from the fields of a list. -/
def entryOf (l : List ByteField) : RingEntry := l.foldr (fun f e => f.entry ||| e) 0

@[simp] theorem entryOf_nil : entryOf [] = 0 := rfl

@[simp] theorem entryOf_cons (f : ByteField) (l : List ByteField) : entryOf (f :: l) = f.entry ||| entryOf l := rfl

theorem entryOf_append (l l' : List ByteField) : entryOf (l ++ l') = entryOf l ||| entryOf l' := by
  induction l with
  | nil => simp
  | cons f l ih => rw [List.cons_append, entryOf_cons, ih, entryOf_cons, BitVec.or_assoc]

/-- Two fields have no byte in common. -/
def ByteField.apart (f g : ByteField) : Prop := f.start + f.length ≤ g.start ∨ g.start + g.length ≤ f.start

/-- The fields of a list lie within the entry, and no two of them have a byte in common. -/
structure LaidOut (l : List ByteField) : Prop where
  within : ∀ f ∈ l, f.start + f.length ≤ 64
  apart : l.Pairwise ByteField.apart

/-- The entry of a field that is wide enough for its value. -/
theorem entry_toNat {start length : Nat} (v : BitVec n) (h : n ≤ 8 * length) :
    ByteField.entry ⟨start, length, v.toNat⟩ = putAt start v := by
  have hv : v.toNat < 2 ^ (8 * length) := v.isLt.trans_le (Nat.pow_le_pow_right (by decide) h)
  have hwide : (BitVec.ofNat (8 * length) v.toNat).setWidth 512 = v.setWidth 512 := by
    apply BitVec.eq_of_toNat_eq
    rw [BitVec.toNat_setWidth, BitVec.toNat_setWidth, BitVec.toNat_ofNat, Nat.mod_eq_of_lt hv]
  rw [ByteField.entry, putAt, putAt, hwide]

/-- Bytes that no field has are zero. -/
theorem bytesAt_entryOf_apart (h : ∀ g ∈ l, f.apart g) : bytesAt (entryOf l) f.start (8 * f.length) = 0#_ := by
  induction l with
  | nil => simp [bytesAt]
  | cons g l ih =>
    obtain ⟨hg, hl⟩ := List.forall_mem_cons.mp h
    have hzero : bytesAt g.entry f.start (8 * f.length) = 0#_ :=
      bytesAt_putAt_disjoint _ _ _ _ (hg.imp (fun h => by omega) fun h => by omega)
    rw [entryOf_cons, bytesAt_or, hzero, ih hl, BitVec.or_self]

theorem ByteField.apart_comm : f.apart g ↔ g.apart f := or_comm

/-- Each of the fields holds its value. -/
theorem bytesAt_entryOf (h : LaidOut l) (hf : f ∈ l) :
    bytesAt (entryOf l) f.start (8 * f.length) = BitVec.ofNat (8 * f.length) f.value := by
  obtain ⟨hwithin, hapart⟩ := h
  induction l with
  | nil => cases hf
  | cons g l ih =>
    obtain ⟨hg, hl⟩ := List.pairwise_cons.mp hapart
    rw [entryOf_cons, bytesAt_or]
    rcases List.mem_cons.mp hf with rfl | hmem
    · have hfit := hwithin f hf
      rw [bytesAt_entryOf_apart hg, ByteField.entry, bytesAt_putAt _ _ (by omega), BitVec.or_zero]
    · have hzero : bytesAt g.entry f.start (8 * f.length) = 0#_ :=
        bytesAt_putAt_disjoint _ _ _ _ ((hg f hmem).symm.imp (fun h => by omega) fun h => by omega)
      rw [hzero, ih hmem (fun k hk => hwithin k (List.mem_cons_of_mem g hk)) hl, BitVec.zero_or]

theorem two_pow_eight_mul (k : Nat) : 2 ^ (8 * k) = 256 ^ k := pow_mul 2 8 k

theorem toNat_bytesAt (e : RingEntry) (off length : Nat) :
    (bytesAt e off (8 * length)).toNat = e.toNat / 256 ^ off % 256 ^ length := by
  rw [bytesAt, BitVec.extractLsb'_toNat, Nat.shiftRight_eq_div_pow, two_pow_eight_mul, two_pow_eight_mul]

/-- An entry put together from fields that lie apart holds them, and nothing else (R170, R171). -/
theorem holdsFields_entryOf (h : LaidOut l) : holdsFields (entryOf l) l := by
  refine ⟨fun f hf => ?_, fun k hk hout => ?_⟩
  · rw [← toNat_bytesAt, bytesAt_entryOf h hf, BitVec.toNat_ofNat, two_pow_eight_mul]
  · have hzero : bytesAt (entryOf l) k (8 * 1) = 0#_ :=
      bytesAt_entryOf_apart (f := ⟨k, 1, 0⟩) fun g hg => (hout g hg).imp_left Nat.succ_le_of_lt
    have hbyte := toNat_bytesAt (entryOf l) k 1
    rw [hzero, pow_one] at hbyte
    exact hbyte.symm

end

/-! ### Replies (R170) -/

theorem entry_flag (start : Nat) (b : Bool) : ByteField.entry ⟨start, 1, b.toNat⟩ = putAt start (flagBit b) := by
  rw [← BitVec.toNat_ofBool, entry_toNat _ (by decide), flagBit]

@[simp] theorem putAt_zero (start n : Nat) : putAt start (0#n) = 0 := by simp [putAt]

@[simp] theorem entry_zero (start length : Nat) : ByteField.entry ⟨start, length, 0⟩ = 0 := by simp [ByteField.entry]

/-- A value put with zeros above it is the value put. -/
theorem putAt_setWidth {n m : Nat} (start : Nat) (v : BitVec n) (h : n ≤ m) : putAt start (v.setWidth m) = putAt start v := by
  have hv : v.toNat < 2 ^ m := v.isLt.trans_le (Nat.pow_le_pow_right (by decide) h)
  have hwide : (v.setWidth m).setWidth 512 = v.setWidth 512 := by
    apply BitVec.eq_of_toNat_eq
    rw [BitVec.toNat_setWidth, BitVec.toNat_setWidth, BitVec.toNat_setWidth, Nat.mod_eq_of_lt hv]
  rw [putAt, putAt, hwide]

/-- A count is put into its field cut to the field's length. -/
theorem putAt_ofNat_byte (start k : Nat) : putAt start (BitVec.ofNat 8 k) = ByteField.entry ⟨start, 1, k⟩ := rfl

theorem putAt_ofNat_half (start k : Nat) : putAt start (BitVec.ofNat 16 k) = ByteField.entry ⟨start, 2, k⟩ := rfl

theorem putAt_ofNat_word (start k : Nat) : putAt start (BitVec.ofNat 32 k) = ByteField.entry ⟨start, 4, k⟩ := rfl

/-- The body of a reply is put together from its fields. -/
theorem replyBody_bytes (b : ReplyBody) : b.bytes = entryOf b.fields := by
  cases b with
  | header => rfl
  | granted claim mode value tick serial =>
    cases value <;> simp [ReplyBody.bytes, ReplyBody.fields, entry_toNat, BitVec.or_assoc, ValueBlock.word]
  | claimMode claim mode => cases mode <;> simp [ReplyBody.bytes, ReplyBody.fields, entry_toNat, modeCode]
  | sessionTick session tick => simp [ReplyBody.bytes, ReplyBody.fields, entry_toNat]
  | fence verdict reason serial => simp [ReplyBody.bytes, ReplyBody.fields, entry_toNat, BitVec.or_assoc]
  | level old => simp [ReplyBody.bytes, ReplyBody.fields, entry_toNat]
  | resource way holders exclusive converts waits serial value =>
    simp [ReplyBody.bytes, ReplyBody.fields, entry_toNat, BitVec.or_assoc, putAt_ofNat_half]
  | openSession channel claims remaining =>
    simp [ReplyBody.bytes, ReplyBody.fields, entry_toNat, BitVec.or_assoc, putAt_ofNat_byte, putAt_ofNat_half]
  | lapsedSession channel reason =>
    simp [ReplyBody.bytes, ReplyBody.fields, entry_toNat, BitVec.or_assoc, putAt_ofNat_byte]
  | device freeClaims freeSessions serial now period =>
    simp [ReplyBody.bytes, ReplyBody.fields, entry_toNat, BitVec.or_assoc, putAt_ofNat_half]

theorem reply_bytes (r : Reply) (phase : Bool) : r.bytes phase = entryOf (r.fields phase) := by
  simp [Reply.bytes, Reply.fields, replyBody_bytes, entry_toNat, entry_flag, BitVec.or_assoc]

theorem laidOut_reply (r : Reply) (phase : Bool) : LaidOut (r.fields phase) := by
  constructor
  · cases hb : r.body <;> simp [Reply.fields, ReplyBody.fields, hb]
  · cases hb : r.body <;> simp [Reply.fields, ReplyBody.fields, ByteField.apart, hb]

/-! ### Notices (R171) -/

theorem notice_bytes (n : Notice) (phase : Bool) : n.bytes phase = entryOf (n.fields phase) := by
  have hswap (a b c : RingEntry) : a ||| b ||| c = b ||| (a ||| c) := by rw [BitVec.or_comm a, BitVec.or_assoc]
  rw [Notice.bytes, hswap]
  cases n with
  | contention i claim session key held wanted queue tick =>
    simp [Notice.code, Notice.body, Notice.fields, entry_toNat, entry_flag, BitVec.or_assoc, putAt_setWidth, putAt_ofNat_half]
  | sessionLapsed i session reason tick withdrawn =>
    simp [Notice.code, Notice.body, Notice.fields, entry_toNat, entry_flag, BitVec.or_assoc, putAt_ofNat_half,
      putAt_ofNat_word]
  | channelFaulted channel cause tick =>
    simp [Notice.code, Notice.body, Notice.fields, entry_toNat, entry_flag, BitVec.or_assoc, putAt_setWidth,
      putAt_ofNat_half, putAt_ofNat_byte]

theorem laidOut_notice (n : Notice) (phase : Bool) : LaidOut (n.fields phase) := by
  constructor
  · cases n <;> simp [Notice.fields]
  · cases n <;> simp [Notice.fields, ByteField.apart]

/-! ### Codes and addresses (R167, R168, R173) -/

theorem codesAsGiven : CodesAsGiven :=
  ⟨rfl, rfl, rfl, rfl, rfl, rfl, fun _ => rfl, rfl, rfl, rfl, rfl, rfl, rfl, rfl⟩

theorem toNat_replyAddress {c : Channel} {r : Rings} {pos : Nat} (hr : c.rings = some r)
    (h : r.rplBase.toNat + 64 * pos < 2 ^ 64) : (c.replyAddress pos).toNat = r.rplBase.toNat + 64 * pos := by
  rw [Channel.replyAddress, hr]
  dsimp only
  rw [ringAddress, if_pos h, BitVec.toNat_add, BitVec.toNat_ofNat, Nat.add_mod_mod, Nat.mod_eq_of_lt h]

/-- Settles O3: entries are put together from fields that lie apart. -/
theorem entryRoundTrip : Obligations.EntryRoundTrip := by
  refine ⟨fun ch i e hw hch he => decode_encode hch hw he, fun r phase => ?_, fun n phase => ?_, codesAsGiven,
    fun c r pos hr h => toNat_replyAddress hr h⟩
  · rw [reply_bytes]
    exact holdsFields_entryOf (laidOut_reply r phase)
  · rw [notice_bytes]
    exact holdsFields_entryOf (laidOut_notice n phase)

end Sys2Proof.Machine
end

section
/-! PROOFS. The state of the target that a management request is refused for (R157, R158, R160 to R162), SET_ACCESS (R161), and
INSPECT_DEVICE (R165). -/

namespace Sys2Proof.Machine

section
variable {s : State} {c : Instr} {tag : ReqTag} {target domain : BitVec 8} {st : Status} {l : Level}

/-! ### The state of the target (R157, R158, R160 to R162) -/

/-- The status with which a management request of a kind is refused for the state of its target channel, if it is (R157, R158,
R160 to R162). -/
def targetRefusal (k : Kind) (x : Channel) : Option Status :=
  match x.state with
  | .closing => some .busy
  | .off => if k = .setupChannel then none else some .wrongState
  | .active => if k = .setupChannel ∨ k = .restartChannel then some .wrongState else none
  | .faulted =>
    if k = .setupChannel then some .wrongState
    else if k = .restartChannel then if x.dmaBusy then some .busy else none
    else none

theorem targetOf_inRange (h : targetInRange target = true) : targetOf target = some target.toNat := by
  rw [targetOf_eq, if_pos h]

/-- SETUP_CHANNEL past its range checks (R157). -/
theorem setupChannel_inRange {vector : BitVec 8} {sl cl : BitVec 16} {rb pb : HostAddr} {rs ps : BitVec 16} {r : Rings}
    (htarget : targetInRange target = true) (hr : setupRings vector sl cl rb pb rs ps = some r) :
    s.setupChannel 0 tag target vector sl cl rb pb rs ps =
      match targetRefusal .setupChannel (s.chan target.toNat) with
      | some st => s.reply 0 .setupChannel tag st
      | none =>
        (s.setChan target.toNat ((s.chan target.toNat).setUp r sl.toNat cl.toNat)).reply 0 .setupChannel tag .ok := by
  rw [State.setupChannel, if_neg (by decide), targetOf_inRange htarget, hr, targetRefusal]
  dsimp only
  cases (s.chan target.toNat).state <;> rfl

/-- TEARDOWN_CHANNEL past its range check (R158). -/
theorem teardownChannel_inRange (htarget : targetInRange target = true) :
    s.teardownChannel 0 tag target =
      match targetRefusal .teardownChannel (s.chan target.toNat) with
      | some st => s.reply 0 .teardownChannel tag st
      | none => s.teardown target.toNat tag := by
  rw [State.teardownChannel, if_neg (by decide), targetOf_inRange htarget, targetRefusal]
  dsimp only
  cases (s.chan target.toNat).state <;> rfl

/-- RESTART_CHANNEL past its range check (R160). -/
theorem restartChannel_inRange (htarget : targetInRange target = true) :
    s.restartChannel 0 tag target =
      match targetRefusal .restartChannel (s.chan target.toNat) with
      | some st => s.reply 0 .restartChannel tag st
      | none => (s.restart target.toNat).reply 0 .restartChannel tag .ok := by
  rw [State.restartChannel, if_neg (by decide), targetOf_inRange htarget, targetRefusal]
  dsimp only
  cases (s.chan target.toNat).state
  case faulted => cases (s.chan target.toNat).dmaBusy <;> rfl
  all_goals rfl

/-- SET_ACCESS past its range checks (R161). -/
theorem setAccess_inRange (htarget : targetInRange target = true) (hdomain : domain.toNat ≤ 15) :
    s.setAccess 0 tag target domain l.code =
      match targetRefusal .setAccess (s.chan target.toNat) with
      | some st => s.reply 0 .setAccess tag st
      | none => s.setLevel 0 target.toNat tag domain.toNat l := by
  have hle : ¬15 < domain := Nat.not_lt.mpr hdomain
  rw [State.setAccess, if_neg (by decide), targetOf_inRange htarget, Level.ofCode_code, targetRefusal]
  dsimp only
  rw [if_neg hle]
  cases (s.chan target.toNat).state <;> rfl

/-- SET_LIMITS past its range checks (R162). -/
theorem setLimits_inRange {a b : BitVec 16} (htarget : targetInRange target = true) (ha : a.toNat ≤ 512)
    (hb : b.toNat ≤ 32768) :
    s.setLimits 0 tag target a b =
      match targetRefusal .setLimits (s.chan target.toNat) with
      | some st => s.reply 0 .setLimits tag st
      | none => s.limit 0 target.toNat tag a.toNat b.toNat := by
  have hlimits : ¬(512 < a ∨ 32768 < b) := not_or.mpr ⟨Nat.not_lt.mpr ha, Nat.not_lt.mpr hb⟩
  rw [State.setLimits, if_neg (by decide), targetOf_inRange htarget, targetRefusal]
  dsimp only
  rw [if_neg hlimits]
  cases (s.chan target.toNat).state <;> rfl

theorem exists_code_of_le {x : BitVec 8} (h : x.toNat ≤ 2) : ∃ l : Level, x = l.code := by
  have hx : x = 0 ∨ x = 1 ∨ x = 2 := by bv_omega
  rcases hx with rfl | rfl | rfl
  exacts [⟨.none, rfl⟩, ⟨.check, rfl⟩, ⟨.full, rfl⟩]

theorem inRange_setAccess_iff {x : BitVec 8} : (Instr.setAccess 0 tag target domain x).inRange = true ↔
    targetInRange target = true ∧ domain.toNat ≤ 15 ∧ ∃ l : Level, x = l.code := by
  have hlevel : x.toNat ≤ 2 ↔ ∃ l : Level, x = l.code :=
    ⟨exists_code_of_le, fun ⟨l, hl⟩ => hl ▸ by cases l <;> decide⟩
  simp only [Instr.inRange, Bool.and_eq_true, decide_eq_true_eq, hlevel, and_assoc]

/-- The handlers refuse by the state of the target once the field ranges pass (R156). -/
theorem handled_target_refused (hc : c.requestChannel = some 0) (hrange : c.inRange = true)
    (ht : c.targetArgument = some target) (hst : targetRefusal c.replyKind (s.chan target.toNat) = some st) :
    s.handled c = s.reply 0 c.replyKind c.requestTag st := by
  cases c
  case setupChannel =>
    cases hc
    cases ht
    dsimp only [Instr.replyKind] at hst
    obtain ⟨htarget, hrings⟩ := setup_of_inRange hrange
    exact (setupChannel_inRange htarget hrings).trans (by rw [hst]; rfl)
  case teardownChannel =>
    cases hc
    cases ht
    dsimp only [Instr.replyKind] at hst
    exact (teardownChannel_inRange hrange).trans (by rw [hst]; rfl)
  case restartChannel =>
    cases hc
    cases ht
    dsimp only [Instr.replyKind] at hst
    exact (restartChannel_inRange hrange).trans (by rw [hst]; rfl)
  case setAccess =>
    cases hc
    cases ht
    dsimp only [Instr.replyKind] at hst
    obtain ⟨htarget, hdomain, l, rfl⟩ := inRange_setAccess_iff.mp hrange
    exact (setAccess_inRange htarget hdomain).trans (by rw [hst]; rfl)
  case setLimits =>
    cases hc
    cases ht
    dsimp only [Instr.replyKind] at hst
    simp only [Instr.inRange, Bool.and_eq_true, decide_eq_true_eq] at hrange
    obtain ⟨⟨htarget, hsessions⟩, hclaims⟩ := hrange
    exact (setLimits_inRange htarget hsessions hclaims).trans (by rw [hst]; rfl)
  all_goals cases ht

/-- A request with a target and its field ranges in order has one from 1 to 15 (R156). -/
theorem targetInRange_of_inRange (hrange : c.inRange = true) (ht : c.targetArgument = some target) :
    targetInRange target = true := by
  cases c
  case setupChannel | teardownChannel | restartChannel | setAccess | setLimits =>
    cases ht
    simp only [Instr.inRange, Bool.and_eq_true] at hrange
    simp only [hrange]
  all_goals cases ht

theorem chan_popRequest_target (h : targetInRange target = true) : (s.popRequest 0).chan target.toNat = s.chan target.toNat := by
  rw [chan_popRequest, if_neg (target_ne_zero h)]

theorem exec_target_refused (hc : c.requestChannel = some 0) (hn : s.nextRequest 0 = some c) (hrange : c.inRange = true)
    (ht : c.targetArgument = some target) (hst : targetRefusal c.replyKind (s.chan target.toNat) = some st) :
    exec c s = .next (s.answered 0 ⟨c.replyKind, c.requestTag, st, .header⟩) := by
  rw [← chan_popRequest_target (targetInRange_of_inRange hrange ht)] at hst
  rw [exec_request hc hn]
  exact (congrArg _ (handled_target_refused hc hrange ht hst)).trans (taken_answered hn _)

end

/-- Settles O30: the refusals of the five requests are one function of the kind and the target's record. -/
theorem targetStateRefused : Obligations.TargetStateRefused := by
  intro s c target hc hn hrange ht refused x
  have refuse {st : Status} (hst : targetRefusal c.replyKind x = some st) : refused st :=
    exec_target_refused hc hn hrange ht hst
  refine ⟨fun hx => refuse ?_, fun hk hx => refuse ?_, fun hk hx => refuse ?_, fun hk => ⟨fun hx => refuse ?_,
    fun hx hdma => refuse ?_⟩⟩
  · rw [targetRefusal, hx]
  · rcases hx with hx | hx <;> rw [targetRefusal, hx, hk] <;> rfl
  · rcases hk with hk | hk | hk <;> rw [targetRefusal, hx, hk] <;> rfl
  · rcases hx with hx | hx <;> rw [targetRefusal, hx, hk] <;> rfl
  · have hbusy : x.dmaBusy = true := by
      rw [← Bool.not_eq_false, dmaBusy_eq_false]
      exact fun ⟨hfetch, hwrites⟩ => hdma.elim (· hwrites) (· hfetch)
    rw [targetRefusal, hx, hk, hbusy]
    rfl

section
variable {s : State} {tag : ReqTag} {target domain : BitVec 8} {l : Level}

/-! ### SET_ACCESS (R161) -/

/-- SET_ACCESS of a target whose access table it may change. -/
theorem exec_setAccess (htarget : targetInRange target = true) (hdomain : domain.toNat ≤ 15)
    (hn : s.nextRequest 0 = some (.setAccess 0 tag target domain l.code))
    (hst : targetRefusal .setAccess (s.chan target.toNat) = none) :
    exec (.setAccess 0 tag target domain l.code) s =
      .next ((s.setChan target.toNat
        { s.chan target.toNat with access := (s.chan target.toNat).access.set domain.toNat l }).answered 0
          ⟨.setAccess, tag, .ok, .level ((s.chan target.toNat).access.get domain.toNat)⟩) := by
  have hchan := chan_popRequest_target (s := s) htarget
  rw [exec_request (ch := 0) rfl hn]
  refine congrArg _ ((setAccess_inRange (s := s.popRequest 0) htarget hdomain).trans ?_)
  rw [hchan, hst]
  dsimp only
  rw [State.setLevel, hchan]
  exact popRequest_setChan_hand _ (nextRequest_active hn) (target_ne_zero htarget)

end

/-- Settles O33: the range checks, the state of the target, and the change of the table, in that order. -/
theorem setAccessStores : Obligations.SetAccessStores := by
  intro s tag target domain level htarget hn answers x
  refine ⟨fun hout => ?_, ?_⟩
  · refine exec_refused (ch := 0) rfl hn (handled_management_out_of_range rfl (fun h => h rfl) rfl ?_)
    rw [← Bool.not_eq_true, inRange_setAccess_iff]
    rintro ⟨-, hdomain, l, hl⟩
    exact hout.elim (fun h => absurd hdomain (Nat.not_le.mpr h)) fun h => h l hl
  · rintro l hdomain rfl
    have hrange := (inRange_setAccess_iff (tag := tag)).mpr ⟨htarget, hdomain, l, rfl⟩
    obtain ⟨hclosing, -, hoff, -⟩ := targetStateRefused s _ target rfl hn hrange rfl
    refine ⟨hclosing, hoff (.inr (.inl rfl)), fun hx => exec_setAccess htarget hdomain hn ?_⟩
    rcases hx with hx | hx <;> rw [targetRefusal, hx] <;> rfl

/-! ### INSPECT_DEVICE (R165) -/

/-- Settles O37: taking the request changes nothing that the report reads. -/
theorem inspectDeviceReports : Obligations.InspectDeviceReports := by
  intro s tag hn
  have hreport : (s.popRequest 0).deviceReport = s.deviceReport := rfl
  have hhand : (s.popRequest 0).inspectDevice 0 tag = (s.popRequest 0).hand 0 ⟨.inspectDevice, tag, .ok, s.deviceReport⟩ := by
    rw [State.inspectDevice, if_neg (by decide), hreport]
  rw [exec_request (ch := 0) rfl hn]
  exact (congrArg _ hhand).trans (taken_answered hn _)

end Sys2Proof.Machine
end

section
/-! PROOFS. The step and the queue of commands. -/

namespace Sys2Proof.Machine

section
variable {s : State}

/-- With a command at the front of the queue, a step runs it on the queue's rest. -/
theorem step_of_pending_cons {c : Instr} {rest : List Instr} (h : s.pending = c :: rest) :
    step s = exec c { s with pending := rest } := by
  rw [step, h]

/-- With no command queued, a step leaves the state as it is. -/
theorem step_of_pending_nil (h : s.pending = []) : step s = .next s := by
  rw [step, h]

end

/-- Settles O1: a step by the two forms of the queue; taking the front command off again gives back the state. -/
theorem stepRunsFrontCommand : Obligations.StepRunsFrontCommand := by
  refine ⟨fun c s => ?_, fun s h => step_of_pending_nil h⟩
  have hfront : ({ s with pending := c :: s.pending } : State).pending = c :: s.pending := rfl
  exact step_of_pending_cons hfront

end Sys2Proof.Machine
end
